-- ==== Sys2Proof/Word.lean ====
section
/-!
DEFINITION. The fixed widths of the core (00_scope.md R8): bytes and words are bit vectors, because
the spec wraps, masks and shifts them; register and key numbers are bounded numbers.
-/

namespace Sys2Proof

/-- An 8-bit value: a register V0-VF, a timer, a byte of memory, an immediate `kk` (R8, R10). -/
abbrev Byte := BitVec 8

/-- A 16-bit value: I, PC, Opcode, a stack entry, an instruction word (R8, R10). -/
abbrev Word := BitVec 16

/-- A 12-bit address immediate `nnn` (30_encoding.md R71). -/
abbrev Addr12 := BitVec 12

/-- A general register number 0-15: the field `x` or `y` (10_state.md R20, 30_encoding.md R71). -/
abbrev Reg := Fin 16

/-- A key number 0x0-0xF (10_state.md R34). -/
abbrev KeyId := Fin 16

end Sys2Proof
end

