-- ==== Sys2Proof/Config.lean ====
section
/-!
DEFINITION. What an implementation fixes (the parameters of 00_scope.md R9), the host's commands (R6), and the free values:
what the host does (60_exceptions.md R230) and the random byte (00_scope.md R7).
-/

namespace Sys2Proof

/-- The parameter SUBDECODE_0E: whether families 0x0 and 0xE sub-dispatch on the bottom byte (the default) or on the
bottom nibble (00_scope.md R9, 30_encoding.md R75). -/
inductive SubDecode where
  | byte
  | nibble
  deriving DecidableEq, Repr

/-- The parameters a model takes as arguments (00_scope.md R9). FONT_BASE lies in 0x000..0x1B0, so that the 80 bytes of
the font end below 0x200. -/
structure Params where
  fontBase  : Fin 0x1B1
  font      : Vector Byte 80
  subDecode : SubDecode
  deriving DecidableEq, Repr

/-- The five commands of the host (00_scope.md R6). A key number is 4 bits wide, so no other can be named
(60_exceptions.md R222). -/
inductive Command where
  | reset
  | load (rom : List Byte)
  | step (rnd : Byte)
  | tick
  | setKey (k : KeyId) (p : Bool)
  deriving DecidableEq, Repr, Inhabited

namespace Config

/-- The default FONT, glyphs 0 to 7 (the table of 10_state.md R31; the spec marks it as general knowledge,
93_implementation_defined.md G1; notes/assumptions/11.md). -/
def fontLow : List Byte :=
  [0xF0, 0x90, 0x90, 0x90, 0xF0] ++ [0x20, 0x60, 0x20, 0x20, 0x70] ++
  [0xF0, 0x10, 0xF0, 0x80, 0xF0] ++ [0xF0, 0x10, 0xF0, 0x10, 0xF0] ++
  [0x90, 0x90, 0xF0, 0x10, 0x10] ++ [0xF0, 0x80, 0xF0, 0x10, 0xF0] ++
  [0xF0, 0x80, 0xF0, 0x90, 0xF0] ++ [0xF0, 0x10, 0x20, 0x40, 0x40]

/-- The default FONT, glyphs 8 to F (10_state.md R31). -/
def fontHigh : List Byte :=
  [0xF0, 0x90, 0xF0, 0x90, 0xF0] ++ [0xF0, 0x90, 0xF0, 0x10, 0xF0] ++
  [0xF0, 0x90, 0xF0, 0x90, 0x90] ++ [0xE0, 0x90, 0xE0, 0x90, 0xE0] ++
  [0xF0, 0x80, 0x80, 0x80, 0xF0] ++ [0xE0, 0x90, 0x90, 0x90, 0xE0] ++
  [0xF0, 0x80, 0xF0, 0x80, 0xF0] ++ [0xF0, 0x80, 0xF0, 0x80, 0x80]

/-- The default parameters of the spec: FONT_BASE = 0x050, the font of R31, SUBDECODE_0E = byte (00_scope.md R9). -/
def defaults : Params where
  fontBase := ⟨0x050, by decide⟩
  font := ⟨(fontLow ++ fontHigh).toArray, rfl⟩
  subDecode := .byte

/-- FREE VALUE: the `k`-th command of a host of which nothing is known: any command, with any argument, in any order
(00_scope.md R6, 60_exceptions.md R230; notes/assumptions/3.md). Nothing can evaluate it. -/
opaque freeCommand : Nat → Command

/-- FREE VALUE: a random byte of the host's generator (00_scope.md R7: a free input of each STEP, subject to no law;
notes/assumptions/2.md). Nothing can evaluate it. -/
opaque freeRnd : Nat → Byte

end Config

end Sys2Proof
end

