-- ==== Sys2Proof/Syntax.lean ====
section
/-!
DEFINITION. The instructions: one constructor for each row of spec/opcode_table.json (30_encoding.md R78), with the
operand fields its format gives it (R72, R73). The four NOP rows are four constructors (notes/assumptions/8.md).
-/

namespace Sys2Proof

/-- The instruction set (30_encoding.md R78). `x` and `y` are register numbers, `kk` a byte immediate, `nnn` an address
immediate, `n` a row count. A NOP row carries the word's low 12 bits, so that no bit of the word is lost. -/
inductive Instr where
  /-- 00E0 `CLS` (41_display.md R100) -/
  | cls
  /-- 00EE `RET` (42_flow.md R110) -/
  | ret
  /-- 1nnn `JP nnn` (R111) -/
  | jp (nnn : Addr12)
  /-- 2nnn `CALL nnn` (R112) -/
  | call (nnn : Addr12)
  /-- 3xkk `SE Vx, kk` (R114) -/
  | seImm (x : Reg) (kk : Byte)
  /-- 4xkk `SNE Vx, kk` (R115) -/
  | sneImm (x : Reg) (kk : Byte)
  /-- 5xy0 `SE Vx, Vy` (R116, R118) -/
  | seReg (x y : Reg)
  /-- 6xkk `LD Vx, kk` (43_alu.md R131) -/
  | ldImm (x : Reg) (kk : Byte)
  /-- 7xkk `ADD Vx, kk` (R132) -/
  | addImm (x : Reg) (kk : Byte)
  /-- 8xy0 `LD Vx, Vy` (R133) -/
  | ldReg (x y : Reg)
  /-- 8xy1 `OR Vx, Vy` (R134) -/
  | orReg (x y : Reg)
  /-- 8xy2 `AND Vx, Vy` (R135) -/
  | andReg (x y : Reg)
  /-- 8xy3 `XOR Vx, Vy` (R136) -/
  | xorReg (x y : Reg)
  /-- 8xy4 `ADD Vx, Vy` (R138) -/
  | addReg (x y : Reg)
  /-- 8xy5 `SUB Vx, Vy` (R139) -/
  | subReg (x y : Reg)
  /-- 8xy6 `SHR Vx, Vy` (R140); `y` is encoded and ignored -/
  | shrReg (x y : Reg)
  /-- 8xy7 `SUBN Vx, Vy` (R141) -/
  | subnReg (x y : Reg)
  /-- 8xyE `SHL Vx, Vy` (R142); `y` is encoded and ignored -/
  | shlReg (x y : Reg)
  /-- 9xy0 `SNE Vx, Vy` (42_flow.md R117, R118) -/
  | sneReg (x y : Reg)
  /-- Annn `LD I, nnn` (44_index_memory.md R160) -/
  | ldI (nnn : Addr12)
  /-- Bnnn `JP V0, nnn` (42_flow.md R119) -/
  | jpV0 (nnn : Addr12)
  /-- Cxkk `RND Vx, kk` (43_alu.md R143) -/
  | rnd (x : Reg) (kk : Byte)
  /-- Dxyn `DRW Vx, Vy, n` (41_display.md R101) -/
  | drw (x y : Reg) (n : Fin 16)
  /-- Ex9E `SKP Vx` (45_keypad_timers.md R180) -/
  | skp (x : Reg)
  /-- ExA1 `SKNP Vx` (R181) -/
  | sknp (x : Reg)
  /-- Fx07 `LD Vx, DT` (R183) -/
  | ldVxDT (x : Reg)
  /-- Fx0A `LD Vx, K` (R182) -/
  | ldVxK (x : Reg)
  /-- Fx15 `LD DT, Vx` (R184) -/
  | ldDTVx (x : Reg)
  /-- Fx18 `LD ST, Vx` (R185) -/
  | ldSTVx (x : Reg)
  /-- Fx1E `ADD I, Vx` (44_index_memory.md R161) -/
  | addI (x : Reg)
  /-- Fx29 `LD F, Vx` (R162) -/
  | ldF (x : Reg)
  /-- Fx33 `LD B, Vx` (R163) -/
  | ldB (x : Reg)
  /-- Fx55 `LD [I], Vx` (R164) -/
  | ldMemVx (x : Reg)
  /-- Fx65 `LD Vx, [I]` (R165) -/
  | ldVxMem (x : Reg)
  /-- NOP, an unmapped word of family 0x0, 0nnn included (30_encoding.md R84, R85) -/
  | nop0 (rest : Addr12)
  /-- NOP, an unmapped word of family 0x8 (R84) -/
  | nop8 (rest : Addr12)
  /-- NOP, an unmapped word of family 0xE (R84) -/
  | nopE (rest : Addr12)
  /-- NOP, an unmapped word of family 0xF (R84) -/
  | nopF (rest : Addr12)
  deriving DecidableEq, Repr

end Sys2Proof
end

