-- ==== Sys2Proof/WellFormed.lean ====
section
/-!
DEFINITION. Which terms of `Instr` stand for a word: every term, but that a NOP's low 12 bits must be unmapped in its
family (30_encoding.md R84). The operand widths are in the types already.
-/

namespace Sys2Proof

/-- The sub-opcode of families 0x0 and 0xE: the bottom byte or the bottom nibble (30_encoding.md R75). -/
def SubDecode.key (sd : SubDecode) (low : Nat) : Nat :=
  match sd with
  | .byte => low % 256
  | .nibble => low % 16

/-- The mapped sub-opcodes of family 0x0: CLS and RET (R76). -/
def SubDecode.mapped0 : SubDecode → List Nat
  | .byte => [0xE0, 0xEE]
  | .nibble => [0x0, 0xE]

/-- The mapped sub-opcodes of family 0xE: SKP and SKNP (R76). -/
def SubDecode.mappedE : SubDecode → List Nat
  | .byte => [0x9E, 0xA1]
  | .nibble => [0xE, 0x1]

/-- The mapped bottom nibbles of family 0x8 (R76). -/
def mapped8 : List Nat := [0x0, 0x1, 0x2, 0x3, 0x4, 0x5, 0x6, 0x7, 0xE]

/-- The mapped bottom bytes of family 0xF (R76). -/
def mappedF : List Nat := [0x07, 0x0A, 0x15, 0x18, 0x1E, 0x29, 0x33, 0x55, 0x65]

/-- `i` is the meaning of some word under SUBDECODE_0E = `sd`. -/
def Instr.wf (sd : SubDecode) : Instr → Bool
  | .nop0 rest => !(sd.mapped0.contains (sd.key rest.toNat))
  | .nop8 rest => !(mapped8.contains (rest.toNat % 16))
  | .nopE rest => !(sd.mappedE.contains (sd.key rest.toNat))
  | .nopF rest => !(mappedF.contains (rest.toNat % 256))
  | .cls | .ret | .jp _ | .call _ | .seImm _ _ | .sneImm _ _ | .seReg _ _ | .ldImm _ _ | .addImm _ _ | .ldReg _ _
  | .orReg _ _ | .andReg _ _ | .xorReg _ _ | .addReg _ _ | .subReg _ _ | .shrReg _ _ | .subnReg _ _ | .shlReg _ _
  | .sneReg _ _ | .ldI _ | .jpV0 _ | .rnd _ _ | .drw _ _ _ | .skp _ | .sknp _ | .ldVxDT _ | .ldVxK _ | .ldDTVx _
  | .ldSTVx _ | .addI _ | .ldF _ | .ldB _ | .ldMemVx _ | .ldVxMem _ => true

end Sys2Proof
end

