-- ==== Sys2Proof/Decode.lean ====
section
/-!
DEFINITION. The fields of an instruction word (30_encoding.md R71), the total decoder (R74-R77), the bytes of a word in
memory order (20_memory.md R53), and, after them, the encoder written from the formats of R72 and the rows of R78.
-/

namespace Sys2Proof

/-! ### Fields (R71): `v[hi:lo]` is the unsigned value of bits hi down to lo -/

/-- The top nibble w[15:12], the dispatch key (R74; 90_conflicts.md C5). -/
def topNibble (w : Word) : Nat := w.toNat / 4096

/-- x = w[11:8]. -/
def fieldX (w : Word) : Reg := ⟨w.toNat / 256 % 16, Nat.mod_lt _ (by decide)⟩

/-- y = w[7:4]. -/
def fieldY (w : Word) : Reg := ⟨w.toNat / 16 % 16, Nat.mod_lt _ (by decide)⟩

/-- n = w[3:0]. -/
def fieldN (w : Word) : Fin 16 := ⟨w.toNat % 16, Nat.mod_lt _ (by decide)⟩

/-- kk = w[7:0]. -/
def fieldKK (w : Word) : Byte := BitVec.ofNat 8 w.toNat

/-- nnn = w[11:0]. -/
def fieldNNN (w : Word) : Addr12 := BitVec.ofNat 12 w.toNat

/-! ### The decoder (R76) -/

/-- Family 0x0: CLS, RET or NOP, on the sub-opcode that SUBDECODE_0E selects. DESIGN CHOICE where the spec contradicts
itself: under SUBDECODE_0E = nibble the word 0x0000 is CLS here, as the decoder of R76 and the map of R78 have it, and not
the NOP that 70_reset_and_hazards.md R242 calls it in passing (notes/assumptions/15.md). -/
def decodeFamily0 (sd : SubDecode) (w : Word) : Instr :=
  match sd with
  | .byte =>
    if w.toNat % 256 = 0xE0 then .cls else if w.toNat % 256 = 0xEE then .ret else .nop0 (fieldNNN w)
  | .nibble =>
    if w.toNat % 16 = 0x0 then .cls else if w.toNat % 16 = 0xE then .ret else .nop0 (fieldNNN w)

/-- Family 0x8, on the bottom nibble. -/
def decodeFamily8 (w : Word) : Instr :=
  match w.toNat % 16 with
  | 0x0 => .ldReg (fieldX w) (fieldY w)
  | 0x1 => .orReg (fieldX w) (fieldY w)
  | 0x2 => .andReg (fieldX w) (fieldY w)
  | 0x3 => .xorReg (fieldX w) (fieldY w)
  | 0x4 => .addReg (fieldX w) (fieldY w)
  | 0x5 => .subReg (fieldX w) (fieldY w)
  | 0x6 => .shrReg (fieldX w) (fieldY w)
  | 0x7 => .subnReg (fieldX w) (fieldY w)
  | 0xE => .shlReg (fieldX w) (fieldY w)
  | _ => .nop8 (fieldNNN w)

/-- Family 0xE: SKP, SKNP or NOP, on the sub-opcode that SUBDECODE_0E selects. -/
def decodeFamilyE (sd : SubDecode) (w : Word) : Instr :=
  match sd with
  | .byte =>
    if w.toNat % 256 = 0x9E then .skp (fieldX w)
    else if w.toNat % 256 = 0xA1 then .sknp (fieldX w) else .nopE (fieldNNN w)
  | .nibble =>
    if w.toNat % 16 = 0xE then .skp (fieldX w)
    else if w.toNat % 16 = 0x1 then .sknp (fieldX w) else .nopE (fieldNNN w)

/-- Family 0xF, on the bottom byte. -/
def decodeFamilyF (w : Word) : Instr :=
  match w.toNat % 256 with
  | 0x07 => .ldVxDT (fieldX w)
  | 0x0A => .ldVxK (fieldX w)
  | 0x15 => .ldDTVx (fieldX w)
  | 0x18 => .ldSTVx (fieldX w)
  | 0x1E => .addI (fieldX w)
  | 0x29 => .ldF (fieldX w)
  | 0x33 => .ldB (fieldX w)
  | 0x55 => .ldMemVx (fieldX w)
  | 0x65 => .ldVxMem (fieldX w)
  | _ => .nopF (fieldNNN w)

/-- `decode(w)` of R76: every word is exactly one instruction or a NOP. The top nibble is below 16, so the last arm is
family 0xF. -/
def decodeWord (sd : SubDecode) (w : Word) : Instr :=
  match topNibble w with
  | 0x0 => decodeFamily0 sd w
  | 0x1 => .jp (fieldNNN w)
  | 0x2 => .call (fieldNNN w)
  | 0x3 => .seImm (fieldX w) (fieldKK w)
  | 0x4 => .sneImm (fieldX w) (fieldKK w)
  | 0x5 => .seReg (fieldX w) (fieldY w)
  | 0x6 => .ldImm (fieldX w) (fieldKK w)
  | 0x7 => .addImm (fieldX w) (fieldKK w)
  | 0x8 => decodeFamily8 w
  | 0x9 => .sneReg (fieldX w) (fieldY w)
  | 0xA => .ldI (fieldNNN w)
  | 0xB => .jpV0 (fieldNNN w)
  | 0xC => .rnd (fieldX w) (fieldKK w)
  | 0xD => .drw (fieldX w) (fieldY w) (fieldN w)
  | 0xE => decodeFamilyE sd w
  | _ => decodeFamilyF w

/-! ### Words as bytes, big-endian (20_memory.md R53) -/

/-- The word whose byte at the lower address is `hi`: hi * 256 + lo. -/
def joinBytes (hi lo : Byte) : Word := BitVec.ofNat 16 (hi.toNat * 256 + lo.toNat)

/-- The byte of `w` at the lower address. -/
def highByte (w : Word) : Byte := BitVec.ofNat 8 (w.toNat / 256)

/-- The byte of `w` at the higher address. -/
def lowByte (w : Word) : Byte := BitVec.ofNat 8 w.toNat

/-- `w` as it lies in memory. -/
def wordBytes (w : Word) : List Byte := [highByte w, lowByte w]

/-- Why a byte sequence is not decoded. Every 16-bit word decodes (R76), so the only reason is a missing byte. -/
inductive DecodeReject where
  /-- fewer than the two bytes of an instruction (R70) -/
  | truncated
  deriving DecidableEq, Repr

/-- The first instruction of a byte sequence and the bytes after it: an instruction is exactly two bytes (R70). -/
def decode (sd : SubDecode) : List Byte → Except DecodeReject (Instr × List Byte)
  | hi :: lo :: rest => .ok (decodeWord sd (joinBytes hi lo), rest)
  | _ => .error .truncated

/-- The bytes of the instruction whose bits, numbered as spec/opcode_table.json numbers them, are `w`, of which the
table gives `nbits`: the first word is bits 15..0, and an instruction has no second word (R70). -/
def tableBytes (nbits w : Nat) : List Byte := wordBytes (BitVec.ofNat 16 (w % 2 ^ nbits))

/-- What the decoder reads from such an instruction, under the default SUBDECODE_0E = byte the table is written for. -/
def decodeTableWord (nbits w : Nat) : Option Instr :=
  match decode Config.defaults.subDecode (tableBytes nbits w) with
  | .ok (i, _) => some i
  | .error _ => none

/-! ### The encoder (R72, R78) -/

/-- Format A: op, nnn. -/
def formatA (op : Nat) (nnn : Addr12) : Word := BitVec.ofNat 16 (op * 4096 + nnn.toNat)

/-- Format XK: op, x, kk. -/
def formatXK (op : Nat) (x : Reg) (kk : Byte) : Word := BitVec.ofNat 16 (op * 4096 + x.val * 256 + kk.toNat)

/-- Formats XY and XYN: op, x, y and a bottom nibble (a sub-opcode, a row count, or 0 where it is ignored). -/
def formatXY (op : Nat) (x y : Reg) (low : Nat) : Word :=
  BitVec.ofNat 16 (op * 4096 + x.val * 256 + y.val * 16 + low)

/-- Format X: op, x, a sub-opcode byte. -/
def formatX (op : Nat) (x : Reg) (sub : Nat) : Word := BitVec.ofNat 16 (op * 4096 + x.val * 256 + sub)

/-- The word of an instruction. Bits the decoder ignores (R77) are written 0. The patterns 00E0, 00EE, Ex9E and ExA1
are right under both settings of SUBDECODE_0E (R77). -/
def encode : Instr → Word
  | .cls => 0x00E0
  | .ret => 0x00EE
  | .jp nnn => formatA 0x1 nnn
  | .call nnn => formatA 0x2 nnn
  | .seImm x kk => formatXK 0x3 x kk
  | .sneImm x kk => formatXK 0x4 x kk
  | .seReg x y => formatXY 0x5 x y 0x0
  | .ldImm x kk => formatXK 0x6 x kk
  | .addImm x kk => formatXK 0x7 x kk
  | .ldReg x y => formatXY 0x8 x y 0x0
  | .orReg x y => formatXY 0x8 x y 0x1
  | .andReg x y => formatXY 0x8 x y 0x2
  | .xorReg x y => formatXY 0x8 x y 0x3
  | .addReg x y => formatXY 0x8 x y 0x4
  | .subReg x y => formatXY 0x8 x y 0x5
  | .shrReg x y => formatXY 0x8 x y 0x6
  | .subnReg x y => formatXY 0x8 x y 0x7
  | .shlReg x y => formatXY 0x8 x y 0xE
  | .sneReg x y => formatXY 0x9 x y 0x0
  | .ldI nnn => formatA 0xA nnn
  | .jpV0 nnn => formatA 0xB nnn
  | .rnd x kk => formatXK 0xC x kk
  | .drw x y n => formatXY 0xD x y n.val
  | .skp x => formatX 0xE x 0x9E
  | .sknp x => formatX 0xE x 0xA1
  | .ldVxDT x => formatX 0xF x 0x07
  | .ldVxK x => formatX 0xF x 0x0A
  | .ldDTVx x => formatX 0xF x 0x15
  | .ldSTVx x => formatX 0xF x 0x18
  | .addI x => formatX 0xF x 0x1E
  | .ldF x => formatX 0xF x 0x29
  | .ldB x => formatX 0xF x 0x33
  | .ldMemVx x => formatX 0xF x 0x55
  | .ldVxMem x => formatX 0xF x 0x65
  | .nop0 rest => formatA 0x0 rest
  | .nop8 rest => formatA 0x8 rest
  | .nopE rest => formatA 0xE rest
  | .nopF rest => formatA 0xF rest

/-- The bytes of an instruction in memory order. -/
def encodeBytes (i : Instr) : List Byte := wordBytes (encode i)

/-! ### Assembler syntax (R90): the conventional spelling of each instruction -/

/-- One hexadecimal digit. -/
def hexDigit (n : Nat) : String :=
  (["0", "1", "2", "3", "4", "5", "6", "7", "8", "9", "A", "B", "C", "D", "E", "F"][n % 16]?).getD ""

/-- A hexadecimal number of `digits` digits. -/
def hexDigits : (digits : Nat) → Nat → String
  | 0, _ => ""
  | d + 1, n => hexDigits d (n / 16) ++ hexDigit n

/-- A number with its `0x` prefix. -/
def asmNum (digits n : Nat) : String := "0x" ++ hexDigits digits n

/-- A register name V0..VF. -/
def asmReg (x : Reg) : String := "V" ++ hexDigit x.val

/-- `MNEMONIC operand, operand`. -/
def asmLine2 (m a b : String) : String := m ++ " " ++ a ++ ", " ++ b

/-- The assembler form of an instruction (the map of R90); a NOP word is written as raw data, `DW 0xhhhh`. -/
def assembler : Instr → String
  | .cls => "CLS"
  | .ret => "RET"
  | .jp nnn => "JP " ++ asmNum 3 nnn.toNat
  | .call nnn => "CALL " ++ asmNum 3 nnn.toNat
  | .seImm x kk => asmLine2 "SE" (asmReg x) (asmNum 2 kk.toNat)
  | .sneImm x kk => asmLine2 "SNE" (asmReg x) (asmNum 2 kk.toNat)
  | .seReg x y => asmLine2 "SE" (asmReg x) (asmReg y)
  | .ldImm x kk => asmLine2 "LD" (asmReg x) (asmNum 2 kk.toNat)
  | .addImm x kk => asmLine2 "ADD" (asmReg x) (asmNum 2 kk.toNat)
  | .ldReg x y => asmLine2 "LD" (asmReg x) (asmReg y)
  | .orReg x y => asmLine2 "OR" (asmReg x) (asmReg y)
  | .andReg x y => asmLine2 "AND" (asmReg x) (asmReg y)
  | .xorReg x y => asmLine2 "XOR" (asmReg x) (asmReg y)
  | .addReg x y => asmLine2 "ADD" (asmReg x) (asmReg y)
  | .subReg x y => asmLine2 "SUB" (asmReg x) (asmReg y)
  | .shrReg x y => asmLine2 "SHR" (asmReg x) (asmReg y)
  | .subnReg x y => asmLine2 "SUBN" (asmReg x) (asmReg y)
  | .shlReg x y => asmLine2 "SHL" (asmReg x) (asmReg y)
  | .sneReg x y => asmLine2 "SNE" (asmReg x) (asmReg y)
  | .ldI nnn => asmLine2 "LD" "I" (asmNum 3 nnn.toNat)
  | .jpV0 nnn => asmLine2 "JP" "V0" (asmNum 3 nnn.toNat)
  | .rnd x kk => asmLine2 "RND" (asmReg x) (asmNum 2 kk.toNat)
  | .drw x y n => "DRW " ++ asmReg x ++ ", " ++ asmReg y ++ ", " ++ asmNum 1 n.val
  | .skp x => "SKP " ++ asmReg x
  | .sknp x => "SKNP " ++ asmReg x
  | .ldVxDT x => asmLine2 "LD" (asmReg x) "DT"
  | .ldVxK x => asmLine2 "LD" (asmReg x) "K"
  | .ldDTVx x => asmLine2 "LD" "DT" (asmReg x)
  | .ldSTVx x => asmLine2 "LD" "ST" (asmReg x)
  | .addI x => asmLine2 "ADD" "I" (asmReg x)
  | .ldF x => asmLine2 "LD" "F" (asmReg x)
  | .ldB x => asmLine2 "LD" "B" (asmReg x)
  | .ldMemVx x => asmLine2 "LD" "[I]" (asmReg x)
  | .ldVxMem x => asmLine2 "LD" (asmReg x) "[I]"
  | .nop0 rest => "DW " ++ asmNum 4 (formatA 0x0 rest).toNat
  | .nop8 rest => "DW " ++ asmNum 4 (formatA 0x8 rest).toNat
  | .nopE rest => "DW " ++ asmNum 4 (formatA 0xE rest).toNat
  | .nopF rest => "DW " ++ asmNum 4 (formatA 0xF rest).toNat

end Sys2Proof
end

