-- ==== Sys2Proof/Machine/State.lean ====
section
/-!
DEFINITION. The state of the core (10_state.md R20-R40), the reasons a step may stop, and the state after RESET (R40, 70_reset_and_hazards.md R240).
-/

namespace Sys2Proof.Machine

/-- The causes of 60_exceptions.md R201; their 8-bit codes are `FaultCause.code`. -/
inductive FaultCause where
  /-- code 0: no fault recorded -/
  | none
  /-- code 1: a fetch with PC > 0xFFE -/
  | fetchOutOfBounds
  /-- code 2: Dxyn or Fx65 would read above 0xFFF -/
  | memReadOutOfBounds
  /-- code 3: Fx33 or Fx55 would write above 0xFFF -/
  | memWriteOutOfBounds
  /-- code 4: 2nnn with SP = 16 -/
  | stackOverflow
  /-- code 5: 00EE with SP = 0 -/
  | stackUnderflow
  /-- code 6: Ex9E or ExA1 with V[x] > 0x0F -/
  | keyIndexOutOfRange
  deriving DecidableEq, Repr

/-- Memory as the list of the bytes that differ from the reset contents, addresses strictly rising
(notes/assumptions/9.md). -/
abbrev Memory := List Host.Cell

/-- The framebuffer FB[y][x]: 32 rows of 64 one-bit pixels (10_state.md R33). -/
abbrev Framebuffer := Vector (Vector Bool 64) 32

/-- The state of the core. The last four fields are the model's own: the parameters, and what stands for the host
(notes/assumptions/1.md, 2.md, 3.md). -/
structure State where
  /-- V0-VF (R20); VF is index 15 (R22) -/
  v          : Vector Byte 16
  /-- I (R25) -/
  i          : Word
  /-- PC (R26) -/
  pc         : Word
  /-- Opcode, the last word fetched (R28) -/
  opcode     : Word
  /-- Stack[0..15] (R29) -/
  stack      : Vector Word 16
  /-- SP, 0 to 16 (R29) -/
  sp         : Fin 17
  /-- DT, the delay timer (R30) -/
  dt         : Byte
  /-- ST, the sound timer (R30) -/
  st         : Byte
  /-- Memory (R31) -/
  mem        : Memory
  /-- FB (R33) -/
  fb         : Framebuffer
  /-- Key, true = pressed (R34) -/
  key        : Vector Bool 16
  /-- FAULT_CAUSE (R35) -/
  faultCause : FaultCause
  /-- FAULT_PC (R35) -/
  faultPc    : Word
  /-- FAULT_INFO (R35) -/
  faultInfo  : Word
  /-- FONT_BASE, FONT and SUBDECODE_0E (00_scope.md R9): no command changes them (70_reset_and_hazards.md R241) -/
  params     : Params
  /-- the commands the host will issue next, oldest first -/
  commands   : List Command
  /-- rnd, the argument of the STEP in progress (00_scope.md R7) -/
  rnd        : Byte
  /-- which free command of the host comes next -/
  hostIndex  : Nat
  deriving DecidableEq, Repr

/-- Reasons the machine stops with a fault. There are none: a fault of the spec is a NEXT state that holds the fault
record (60_exceptions.md R200), and a faulted core goes on taking commands (R203). Nobody raises one
(notes/assumptions/6.md). -/
inductive Fault where
  deriving DecidableEq, Repr

/-- Reasons the model has no meaning for an instruction. -/
inductive Refusal where
  /-- Raised only by `exec`, for an instruction whose meaning is not written yet; safe. No arm of `exec` raises it. -/
  | notModelled (mnemonic : String)
  deriving DecidableEq, Repr

/-- The state after RESET, with the spec's default parameters (10_state.md R40, 70_reset_and_hazards.md R240). Memory
lists nothing, so every byte holds its reset contents. -/
def State.reset : State where
  v := Vector.replicate 16 0x00
  i := 0x0000
  pc := 0x0200
  opcode := 0x0000
  stack := Vector.replicate 16 0x0000
  sp := 0
  dt := 0x00
  st := 0x00
  mem := []
  fb := Vector.replicate 32 (Vector.replicate 64 false)
  key := Vector.replicate 16 false
  faultCause := .none
  faultPc := 0x0000
  faultInfo := 0x0000
  params := Config.defaults
  commands := []
  rnd := 0x00
  hostIndex := 0

end Sys2Proof.Machine
end

