-- ==== Sys2Proof/Machine/Ops.lean ====
section
/-!
DEFINITION. The named operations over registers, memory, the stack, the framebuffer and the keypad; taking a fault; the
fetch. Instruction meanings are written over these.
-/

namespace Sys2Proof.Machine

/-! ### Registers -/

/-- VF, the flag register, is V[15] (10_state.md R20, R22). -/
abbrev regF : Reg := 15

/-- `V[x]` (00_scope.md R11). -/
def State.reg (s : State) (x : Reg) : Byte := s.v[x]

/-- `V[x] <- b`. No register is hardwired (10_state.md R20). -/
def State.setReg (s : State) (x : Reg) (b : Byte) : State := { s with v := s.v.set x.val b x.isLt }

/-- `I <- a`. -/
def State.setI (s : State) (a : Word) : State := { s with i := a }

/-- `PC <- a`. -/
def State.setPc (s : State) (a : Word) : State := { s with pc := a }

/-- `DT <- b`. -/
def State.setDt (s : State) (b : Byte) : State := { s with dt := b }

/-- `ST <- b`. -/
def State.setSt (s : State) (b : Byte) : State := { s with st := b }

/-- `V[k] <- bs[0], V[k+1] <- bs[1], …`, in that order; no register above VF exists (44_index_memory.md R165). -/
def State.setRegsFrom (k : Nat) : List Byte → State → State
  | [], s => s
  | b :: bs, s => State.setRegsFrom (k + 1) bs (if h : k < 16 then s.setReg ⟨k, h⟩ b else s)

/-! ### Memory (20_memory.md R50) -/

/-- MEM_SIZE (00_scope.md R8). -/
def memSize : Nat := 4096

/-- What an address that memory does not list reads as: its reset contents, FONT[j] at FONT_BASE + j and 0x00
elsewhere (10_state.md R31, R40). -/
def Memory.unlisted (p : Params) (a : Nat) : Byte :=
  if h : p.fontBase.val ≤ a ∧ a < p.fontBase.val + 80 then p.font[a - p.fontBase.val]'(by omega) else 0x00

/-- `MemRead(a, 1)` (00_scope.md R11). It is used only for a ≤ 0xFFF (20_memory.md R55). -/
def Memory.read (p : Params) (a : Nat) : Memory → Byte
  | [] => Memory.unlisted p a
  | (c, b) :: m => if a = c then b else Memory.read p a m

/-- Puts `b` at `a` into a list with strictly rising addresses; a byte equal to the reset contents is not listed. -/
def Memory.insert (p : Params) (a : Nat) (b : Byte) : Memory → Memory
  | [] => if b = Memory.unlisted p a then [] else [(a, b)]
  | (c, d) :: m =>
    if a < c then (if b = Memory.unlisted p a then (c, d) :: m else (a, b) :: (c, d) :: m)
    else if a = c then (if b = Memory.unlisted p a then m else (a, b) :: m)
    else (c, d) :: Memory.insert p a b m

/-- `MemWrite(a, 1, b)` (00_scope.md R11). Only addresses 0x000-0xFFF exist (20_memory.md R50), and every rule has
checked its addresses before it writes (R55). -/
def Memory.write (p : Params) (a : Nat) (b : Byte) (m : Memory) : Memory :=
  if a < memSize then Memory.insert p a b m else m

/-- The canonical form from address `lo` upward: addresses strictly rising and below 4096, no byte equal to the reset
contents. -/
def Memory.wfFrom (p : Params) (lo : Nat) : Memory → Bool
  | [] => true
  | (a, b) :: m => decide (lo ≤ a) && decide (a < memSize) && decide (b ≠ Memory.unlisted p a) && Memory.wfFrom p (a + 1) m

/-- Memory is in canonical form. -/
def Memory.wf (p : Params) (m : Memory) : Bool := Memory.wfFrom p 0 m

/-- `bs[0]` to `a`, `bs[1]` to `a + 1`, …, in that order. -/
def Memory.writeBytes (p : Params) (a : Nat) : List Byte → Memory → Memory
  | [], m => m
  | b :: bs, m => Memory.writeBytes p (a + 1) bs (Memory.write p a b m)

/-- The byte the core holds at `a`. -/
def State.readByte (s : State) (a : Nat) : Byte := Memory.read s.params a s.mem

/-- The `n` bytes at `a`, `a + 1`, …, in that order. -/
def State.readBytes (s : State) (a : Nat) : (n : Nat) → List Byte
  | 0 => []
  | n + 1 => s.readByte a :: s.readBytes (a + 1) n

/-- Stores `bs` at `a`, `a + 1`, …. -/
def State.writeBytes (s : State) (a : Nat) (bs : List Byte) : State :=
  { s with mem := Memory.writeBytes s.params a bs s.mem }

/-! ### The framebuffer (10_state.md R33) -/

/-- `FB[y][x]`. -/
def Framebuffer.pixel (fb : Framebuffer) (y : Fin 32) (x : Fin 64) : Bool := fb[y][x]

/-- `FB[y][x] <- FB[y][x] xor 1`. -/
def Framebuffer.toggle (fb : Framebuffer) (y : Fin 32) (x : Fin 64) : Framebuffer :=
  fb.set y.val (fb[y].set x.val (!fb[y][x]) x.isLt) y.isLt

/-- Every pixel off. -/
def Framebuffer.blank : Framebuffer := Vector.replicate 32 (Vector.replicate 64 false)

/-- One set sprite bit that falls on column `px` and row `py`: clipped when off-screen, else XORed, with the collision
noted (41_display.md R101). The pair is the framebuffer and the collision so far. -/
def Framebuffer.drawPixel (px py : Nat) (d : Framebuffer × Bool) : Framebuffer × Bool :=
  if h : px < 64 ∧ py < 32 then
    (d.1.toggle ⟨py, h.2⟩ ⟨px, h.1⟩, d.2 || d.1.pixel ⟨py, h.2⟩ ⟨px, h.1⟩)
  else d

/-- One sprite row at column `x0`, row `py`: columns 0 to 7, where bit 7 is the leftmost (notes/assumptions/12.md). -/
def Framebuffer.drawRow (x0 py : Nat) (b : Byte) (d : Framebuffer × Bool) : Framebuffer × Bool :=
  (List.range 8).foldl (fun d col => if b.getLsbD (7 - col) then Framebuffer.drawPixel (x0 + col) py d else d) d

/-- The sprite rows `bs`, from row `py` downward. -/
def Framebuffer.drawRows (x0 : Nat) : (py : Nat) → List Byte → Framebuffer × Bool → Framebuffer × Bool
  | _, [], d => d
  | py, b :: bs, d => Framebuffer.drawRows x0 (py + 1) bs (Framebuffer.drawRow x0 py b d)

/-- `FB[y][x]` of the core. -/
def State.pixel (s : State) (y : Fin 32) (x : Fin 64) : Bool := s.fb.pixel y x

/-- Replaces the framebuffer. -/
def State.setFb (s : State) (fb : Framebuffer) : State := { s with fb := fb }

/-! ### The stack (10_state.md R29): push writes at index SP then increments, pop decrements then reads -/

/-- `Stack[SP] <- a; SP <- SP + 1`, for SP below 16. -/
def State.push (s : State) (a : Word) (h : s.sp.val < 16) : State :=
  { s with stack := s.stack.set s.sp.val a h, sp := ⟨s.sp.val + 1, by omega⟩ }

/-- The entry a pop reads, `Stack[SP - 1]`, for SP above 0. -/
def State.stackTop (s : State) (h : 0 < s.sp.val) : Word := s.stack[s.sp.val - 1]'(by omega)

/-- `SP <- SP - 1`. The entry is not cleared. -/
def State.pop (s : State) : State := { s with sp := ⟨s.sp.val - 1, by omega⟩ }

/-! ### The keypad (10_state.md R34) -/

/-- `Key[k]`: whether key `k` is pressed now. -/
def State.keyDown (s : State) (k : KeyId) : Bool := s.key[k]

/-- The lowest-numbered pressed key, if any: keys 0-F are scanned in ascending order (45_keypad_timers.md R182). -/
def State.lowestKey (s : State) : Option KeyId := (List.finRange 16).find? (fun k => s.keyDown k)

/-! ### Faults (60_exceptions.md R200, R201) -/

/-- The 8-bit value of FAULT_CAUSE (R201). -/
def FaultCause.code : FaultCause → Byte
  | .none => 0
  | .fetchOutOfBounds => 1
  | .memReadOutOfBounds => 2
  | .memWriteOutOfBounds => 3
  | .stackOverflow => 4
  | .stackUnderflow => 5
  | .keyIndexOutOfRange => 6

/-- A faulted core is one with FAULT_CAUSE ≠ 0 (R203). -/
def State.faulted (s : State) : Bool := decide (s.faultCause ≠ .none)

/-- `raise Fault(cause, info)` in a STEP that began with PC = `a`: the record is written and PC put back (R200). There
is no handler, no vector and no saved status (R204), and no return but RESET and LOAD (R205). -/
def State.raiseAt (s : State) (a : Word) (cause : FaultCause) (info : Word) : State :=
  { s with faultCause := cause, faultPc := a, faultInfo := info, pc := a }

/-- `raise Fault(cause, info)` by an instruction's rule: PC is then the instruction's address plus 2
(30_encoding.md R82), since every rule checks before its first write (R83; notes/assumptions/7.md). -/
def State.raiseFault (s : State) (cause : FaultCause) (info : Word) : State := s.raiseAt (s.pc - 2) cause info

/-! ### The fetch (30_encoding.md R80-R82) -/

/-- The big-endian word at `a` (R81, 20_memory.md R53). -/
def State.wordAt (s : State) (a : Nat) : Word := joinBytes (s.readByte a) (s.readByte (a + 1))

/-- The instruction at PC. -/
def State.currentInstr (s : State) : Instr := decodeWord s.params.subDecode (s.wordAt s.pc.toNat)

/-- The state in which an instruction runs: Opcode <- w, PC <- PC + 2 (R81, R82), with the STEP's rnd at hand
(00_scope.md R7). -/
def State.afterFetch (s : State) (rnd : Byte) : State :=
  { s with opcode := s.wordAt s.pc.toNat, pc := s.pc + 2, rnd := rnd }

/-- What the first stages of a STEP lead to. -/
inductive Fetched where
  /-- the STEP ends here, in this state -/
  | ended (s : State)
  /-- the instruction runs, from this state -/
  | runs (i : Instr) (s : State)

/-- Stages 1 to 3 of STEP and the decoding (R80): a faulted core does nothing (60_exceptions.md R203), a fetch needs
PC ≤ 0xFFE (R81). -/
def State.fetch (s : State) (rnd : Byte) : Fetched :=
  if s.faulted then .ended s
  else if 0xFFE < s.pc.toNat then .ended (s.raiseAt s.pc .fetchOutOfBounds s.pc)
  else .runs s.currentInstr (s.afterFetch rnd)

end Sys2Proof.Machine
end

