-- ==== Sys2Proof/Machine/Flags.lean ====
section
/-!
DEFINITION. The values the six flag-writing instructions give VF (10_state.md R23), and the order of the two writes
(43_alu.md R137).
-/

namespace Sys2Proof.Machine

/-- A flag as the byte VF holds: 1 or 0. -/
def flagByte (b : Bool) : Byte := if b then 1 else 0

/-- 8xy4: 1 if the sum is above 255 (43_alu.md R138). -/
def carryFlag (a b : Byte) : Byte := flagByte (decide (255 < a.toNat + b.toNat))

/-- 8xy5, and 8xy7 with its operands exchanged: 1 if `a` > `b`, a strict comparison (R139, R141). -/
def noBorrowFlag (a b : Byte) : Byte := flagByte (decide (b.toNat < a.toNat))

/-- 8xy6: the bit shifted out, `a mod 2` (R140). -/
def lowBitFlag (a : Byte) : Byte := BitVec.ofNat 8 (a.toNat % 2)

/-- 8xyE: the bit shifted out, `a div 128` (R142). -/
def highBitFlag (a : Byte) : Byte := BitVec.ofNat 8 (a.toNat / 128)

/-- `V[0xF] <- f`. -/
def State.setVF (s : State) (f : Byte) : State := s.setReg regF f

/-- The flag first, then the result: `result` reads the registers after the VF write (R137; 10_state.md R24). -/
def State.flagThenResult (s : State) (f : Byte) (x : Reg) (result : State → Byte) : State :=
  (s.setVF f).setReg x (result (s.setVF f))

end Sys2Proof.Machine
end

