-- ==== Sys2Proof/Machine/Operands.lean ====
section
/-!
DEFINITION. The operand forms: address immediates, the one data addressing mode (register-indirect through I,
44_index_memory.md R166) with its bounds rule (20_memory.md R55), the skip (42_flow.md R113), the decimal digits, the
registers V0..Vx, the font glyph address and a key number in a register.
-/

namespace Sys2Proof.Machine

/-- `zext_16(nnn)` (30_encoding.md R73). -/
def zextAddr (nnn : Addr12) : Word := nnn.setWidth 16

/-- `zext_16(b)` (00_scope.md R11). -/
def zextByte (b : Byte) : Word := b.setWidth 16

/-- The `len` bytes at I, I + 1, … reach above 0xFFF, addresses being unbounded naturals; no byte never does
(20_memory.md R55, 41_display.md R101). -/
def State.iRangeOut (s : State) (len : Nat) : Bool := decide (0 < len ∧ 0xFFF < s.i.toNat + len - 1)

/-- The first out-of-bounds address of such an access: max(I, 0x1000) (R55). -/
def State.firstOutOfBounds (s : State) : Word := BitVec.ofNat 16 (max s.i.toNat 0x1000)

/-- An instruction that reads or writes the `len` bytes at I: the whole range is checked before the first write (R55),
then `go` is the effect. -/
def State.withIRange (s : State) (len : Nat) (cause : FaultCause) (go : State → State) : State :=
  if s.iRangeOut len then s.raiseFault cause s.firstOutOfBounds else go s

/-- A conditional skip: `PC <- PC + 2` when the condition holds (42_flow.md R113). -/
def State.skipIf (s : State) (cond : Bool) : State := if cond then s.setPc (s.pc + 2) else s

/-- The hundreds, tens and ones of a byte (44_index_memory.md R163). -/
def bcdDigits (b : Byte) : List Byte :=
  [BitVec.ofNat 8 (b.toNat / 100), BitVec.ofNat 8 (b.toNat / 10 % 10), BitVec.ofNat 8 (b.toNat % 10)]

/-- V0..Vx, in that order (R164). -/
def State.regsUpTo (s : State) (x : Reg) : List Byte := s.v.toList.take (x.val + 1)

/-- FONT_BASE + 5 * b, not masked; at most 0x6AB (R162). -/
def State.glyphAddr (s : State) (b : Byte) : Word := BitVec.ofNat 16 (s.params.fontBase.val + 5 * b.toNat)

/-- An instruction on the key whose number `V[x]` holds: above 0xF it faults (45_keypad_timers.md R180, R181), else
`go` is the effect. -/
def State.withKey (s : State) (x : Reg) (go : KeyId → State) : State :=
  if h : (s.reg x).toNat < 16 then go ⟨(s.reg x).toNat, h⟩
  else s.raiseFault .keyIndexOutOfRange (zextByte (s.reg x))

end Sys2Proof.Machine
end

