-- ==== Sys2Proof/Machine/Commands.lean ====
section
/-!
DEFINITION. The host's side: RESET and LOAD (70_reset_and_hazards.md R240, R242), TICK and SETKEY (60_exceptions.md R220,
R222), which command comes next (00_scope.md R6), and the outputs the host reads (R224-R226).
-/

namespace Sys2Proof.Machine

/-- RESET (70_reset_and_hazards.md R240): everything but the parameters (R241) and the host's own data. -/
def State.resetCommand (s : State) : State :=
  { State.reset with params := s.params, commands := s.commands, rnd := s.rnd, hostIndex := s.hostIndex }

/-- ROM_BASE (00_scope.md R8). -/
def romBase : Nat := 0x200

/-- How many ROM bytes fit below the 4096-byte bound (70_reset_and_hazards.md R242). -/
def romMax : Nat := 3584

/-- LOAD(rom): RESET, then the bytes that fit are copied to 0x200 upward; the rest are dropped with no error (R242). -/
def State.loadCommand (s : State) (rom : List Byte) : State := s.resetCommand.writeBytes romBase (rom.take romMax)

/-- A timer counts down by 1 while above 0 (60_exceptions.md R220, 10_state.md R30). -/
def tickTimer (b : Byte) : Byte := if b = 0 then 0 else b - 1

/-- TICK: both timers, and nothing else, whether or not the core is faulted (60_exceptions.md R220, R203). -/
def State.tick (s : State) : State := { s with dt := tickTimer s.dt, st := tickTimer s.st }

/-- SETKEY(k, p): `Key[k] <- p` and nothing else, whether or not the core is faulted (60_exceptions.md R222). -/
def State.setKey (s : State) (k : KeyId) (p : Bool) : State := { s with key := s.key.set k.val p k.isLt }

/-- The next command and the state it finds: the host's next one where it has named one, else a free command, so that any
sequence of commands is possible (60_exceptions.md R230; notes/assumptions/3.md). -/
def State.takeCommand (s : State) : Command × State :=
  match s.commands with
  | [] => (Config.freeCommand s.hostIndex, { s with hostIndex := s.hostIndex + 1 })
  | c :: cs => (c, { s with commands := cs })

/-! ### Outputs -/

/-- The sound output (60_exceptions.md R224). -/
def State.soundOn (s : State) : Bool := decide (0 < s.st.toNat)

/-- The display output: pixel (x, y) is element y * 64 + x of the row-major grid (60_exceptions.md R225). -/
def State.displayGrid (s : State) : List Bool := (s.fb.toList.map (fun row => row.toList)).flatten

/-- The 32-bit form of a pixel a host may read (10_state.md R33, 60_exceptions.md R225). -/
def pixelWord32 (on : Bool) : BitVec 32 := if on then 0xFFFFFFFF else 0x00000000

/-- The three fields of the fault record as the host reads them (10_state.md R35, 60_exceptions.md R226). -/
def State.faultRecord (s : State) : Byte × Word × Word := (s.faultCause.code, s.faultPc, s.faultInfo)

/-! ### Placing one instruction where the next STEP fetches -/

/-- PC where a fetch is possible, else the entry point. -/
def State.fetchablePc (s : State) : Word := if s.pc.toNat ≤ 0xFFE then s.pc else 0x0200

/-- The word `w` stored at PC, and the core ready to fetch it: no fault recorded, and a STEP with a free rnd as the
host's next and only named command (notes/assumptions/5.md). -/
def State.placeWord (s : State) (w : Word) : State :=
  { s.writeBytes s.fetchablePc.toNat (wordBytes w) with
      pc := s.fetchablePc, faultCause := .none, faultPc := 0, faultInfo := 0,
      commands := [.step (Config.freeRnd s.hostIndex)] }

end Sys2Proof.Machine
end

