-- ==== Sys2Proof/Machine/Alu.lean ====
section
/-!
DEFINITION. Register arithmetic and logic (43_alu.md). Every result is reduced mod 256 (R130); none of these writes PC,
and none faults.
-/

namespace Sys2Proof.Machine

/-- 6xkk LD Vx, kk (R131). -/
def execLdImm (x : Reg) (kk : Byte) (s : State) : Host.Outcome State Fault Refusal := .next (s.setReg x kk)

/-- 7xkk ADD Vx, kk: no flag (R132). -/
def execAddImm (x : Reg) (kk : Byte) (s : State) : Host.Outcome State Fault Refusal := .next (s.setReg x (s.reg x + kk))

/-- 8xy0 LD Vx, Vy (R133). -/
def execLdReg (x y : Reg) (s : State) : Host.Outcome State Fault Refusal := .next (s.setReg x (s.reg y))

/-- 8xy1 OR Vx, Vy: VF is not reset (R134). -/
def execOrReg (x y : Reg) (s : State) : Host.Outcome State Fault Refusal := .next (s.setReg x (s.reg x ||| s.reg y))

/-- 8xy2 AND Vx, Vy (R135). -/
def execAndReg (x y : Reg) (s : State) : Host.Outcome State Fault Refusal := .next (s.setReg x (s.reg x &&& s.reg y))

/-- 8xy3 XOR Vx, Vy (R136). -/
def execXorReg (x y : Reg) (s : State) : Host.Outcome State Fault Refusal := .next (s.setReg x (s.reg x ^^^ s.reg y))

/-- 8xy4 ADD Vx, Vy: the sum is computed before either write (R137, R138). -/
def execAddReg (x y : Reg) (s : State) : Host.Outcome State Fault Refusal :=
  .next (s.flagThenResult (carryFlag (s.reg x) (s.reg y)) x (fun _ => s.reg x + s.reg y))

/-- 8xy5 SUB Vx, Vy: the operands of the subtraction are read after the VF write (R137, R139). -/
def execSubReg (x y : Reg) (s : State) : Host.Outcome State Fault Refusal :=
  .next (s.flagThenResult (noBorrowFlag (s.reg x) (s.reg y)) x (fun t => t.reg x - t.reg y))

/-- 8xy6 SHR Vx, Vy: V[y] is not read; V[x] is read after the VF write (R140). -/
def execShrReg (x _y : Reg) (s : State) : Host.Outcome State Fault Refusal :=
  .next (s.flagThenResult (lowBitFlag (s.reg x)) x (fun t => t.reg x >>> 1))

/-- 8xy7 SUBN Vx, Vy: the operands of the subtraction are read after the VF write (R141). -/
def execSubnReg (x y : Reg) (s : State) : Host.Outcome State Fault Refusal :=
  .next (s.flagThenResult (noBorrowFlag (s.reg y) (s.reg x)) x (fun t => t.reg y - t.reg x))

/-- 8xyE SHL Vx, Vy: V[y] is not read; V[x] is read after the VF write (R142). -/
def execShlReg (x _y : Reg) (s : State) : Host.Outcome State Fault Refusal :=
  .next (s.flagThenResult (highBitFlag (s.reg x)) x (fun t => t.reg x <<< 1))

/-- Cxkk RND Vx, kk: the STEP's free input rnd, masked (R143). -/
def execRnd (x : Reg) (kk : Byte) (s : State) : Host.Outcome State Fault Refusal := .next (s.setReg x (s.rnd &&& kk))

end Sys2Proof.Machine
end

