-- ==== Sys2Proof/Machine/Display.lean ====
section
/-! DEFINITION. The display instructions 00E0 and Dxyn (41_display.md). -/

namespace Sys2Proof.Machine

/-- 00E0 CLS: every pixel 0 (R100). -/
def execCls (s : State) : Host.Outcome State Fault Refusal := .next (s.setFb Framebuffer.blank)

/-- The draw itself: the coordinates are read before VF is written, VF ends as the collision flag (R101;
notes/assumptions/13.md). -/
def State.draw (s : State) (x y : Reg) (n : Fin 16) : State :=
  let d := Framebuffer.drawRows ((s.reg x).toNat % 64) ((s.reg y).toNat % 32) (s.readBytes s.i.toNat n.val) (s.fb, false)
  (s.setFb d.1).setVF (flagByte d.2)

/-- Dxyn DRW Vx, Vy, n: all `n` sprite rows are checked, then the sprite is drawn (R101). -/
def execDrw (x y : Reg) (n : Fin 16) (s : State) : Host.Outcome State Fault Refusal :=
  .next (s.withIRange n.val .memReadOutOfBounds (fun s => s.draw x y n))

end Sys2Proof.Machine
end

