-- ==== Sys2Proof/Machine/IndexMemory.lean ====
section
/-! DEFINITION. Index register and memory instructions (44_index_memory.md). None of them changes I after an access. -/

namespace Sys2Proof.Machine

/-- Annn LD I, nnn (R160). -/
def execLdI (nnn : Addr12) (s : State) : Host.Outcome State Fault Refusal := .next (s.setI (zextAddr nnn))

/-- Fx1E ADD I, Vx: mod 65536, no flag (R161). -/
def execAddI (x : Reg) (s : State) : Host.Outcome State Fault Refusal := .next (s.setI (s.i + zextByte (s.reg x)))

/-- Fx29 LD F, Vx: V[x] is not masked (R162). -/
def execLdF (x : Reg) (s : State) : Host.Outcome State Fault Refusal := .next (s.setI (s.glyphAddr (s.reg x)))

/-- Fx33 LD B, Vx: three decimal digits at I (R163). -/
def execLdB (x : Reg) (s : State) : Host.Outcome State Fault Refusal :=
  .next (s.withIRange 3 .memWriteOutOfBounds (fun s => s.writeBytes s.i.toNat (bcdDigits (s.reg x))))

/-- Fx55 LD [I], Vx: V0..Vx to memory at I (R164). -/
def execLdMemVx (x : Reg) (s : State) : Host.Outcome State Fault Refusal :=
  .next (s.withIRange (x.val + 1) .memWriteOutOfBounds (fun s => s.writeBytes s.i.toNat (s.regsUpTo x)))

/-- Fx65 LD Vx, [I]: memory at I to V0..Vx (R165). -/
def execLdVxMem (x : Reg) (s : State) : Host.Outcome State Fault Refusal :=
  .next (s.withIRange (x.val + 1) .memReadOutOfBounds
    (fun s => State.setRegsFrom 0 (s.readBytes s.i.toNat (x.val + 1)) s))

end Sys2Proof.Machine
end

