-- ==== Sys2Proof/Machine/Nop.lean ====
section
/-!
DEFINITION. The no-op of every unmapped word (30_encoding.md R84): the fetch has written Opcode and PC, and nothing else
changes. One definition for each of the four table rows.
-/

namespace Sys2Proof.Machine

/-- An unmapped word of family 0x0, `0nnn` included (R84, R85). -/
def execNop0 (_rest : Addr12) (s : State) : Host.Outcome State Fault Refusal := .next s

/-- An unmapped word of family 0x8 (R84). -/
def execNop8 (_rest : Addr12) (s : State) : Host.Outcome State Fault Refusal := .next s

/-- An unmapped word of family 0xE (R84). -/
def execNopE (_rest : Addr12) (s : State) : Host.Outcome State Fault Refusal := .next s

/-- An unmapped word of family 0xF (R84). -/
def execNopF (_rest : Addr12) (s : State) : Host.Outcome State Fault Refusal := .next s

end Sys2Proof.Machine
end

