-- ==== Sys2Proof/Machine/Step.lean ====
section
/-!
DEFINITION. One step of the machine is one command of the host, run to completion (00_scope.md R6, 20_memory.md R59).
-/

namespace Sys2Proof.Machine

/-- STEP(rnd) (30_encoding.md R80). -/
def stepWith (rnd : Byte) (s : State) : Host.Outcome State Fault Refusal :=
  match s.fetch rnd with
  | .ended t => .next t
  | .runs i t => exec i t

/-- One command of the host (00_scope.md R6). -/
def runCommand (c : Command) (s : State) : Host.Outcome State Fault Refusal :=
  match c with
  | .reset => .next s.resetCommand
  | .load rom => .next (s.loadCommand rom)
  | .step rnd => stepWith rnd s
  | .tick => .next s.tick
  | .setKey k p => .next (s.setKey k p)

/-- One step: the next command the host issues, the one it has named or a free one (60_exceptions.md R230;
notes/assumptions/3.md). -/
def step (s : State) : Host.Outcome State Fault Refusal := runCommand s.takeCommand.1 s.takeCommand.2

/-- `s` with the instruction whose bits are `w` (of which the table gives `nbits`) stored where the next step fetches
it (notes/assumptions/5.md). -/
def State.withFetchWord (s : State) (nbits w : Nat) : State := s.placeWord (BitVec.ofNat 16 (w % 2 ^ nbits))

end Sys2Proof.Machine
end

