-- ==== Sys2Proof/Safety.lean ====
section
/-!
DEFINITION. The terms claims are stated in: a safe state, the three ends of a run (70_reset_and_hazards.md R250), the
invariants of the machine, and what it is for only some fields of a state to have changed.
-/

namespace Sys2Proof.Machine

/-- A safe state: no fault recorded (60_exceptions.md R203). -/
abbrev State.Safe (s : State) : Prop := s.faultCause = .none

/-- The three ends of a run of R250, and the state of a run that has not ended. -/
inductive RunStatus where
  | selfJump
  | faulted
  | waitingForKey
  | running
  deriving DecidableEq, Repr

/-- Where a run stands (70_reset_and_hazards.md R250): faulted; at a 1nnn whose target is its own address; at an Fx0A
with no key pressed; or running. -/
def State.runStatus (s : State) : RunStatus :=
  if s.faulted then .faulted
  else if 0xFFE < s.pc.toNat then .running
  else match s.currentInstr with
    | .jp nnn => if zextAddr nnn = s.pc then .selfJump else .running
    | .ldVxK _ => if s.lowestKey = none then .waitingForKey else .running
    | _ => .running

/-- The memory's canonical form. -/
abbrev State.MemCanonical (s : State) : Prop := Memory.wf s.params s.mem = true

/-- The bounds the spec derives for PC and the return addresses: PC at most 0x10FE (10_state.md R27), and a pushed PC at
most 0x1000 (42_flow.md R112). -/
abbrev State.PcBounded (s : State) : Prop := s.pc.toNat ≤ 0x10FE ∧ ∀ j : Fin 16, s.stack[j].toNat ≤ 0x1000

/-- Whether the sprite `rows` with its top-left corner at column `x0`, row `y0` has a set bit on pixel (x, y): row
`y - y0` of the sprite, column `x - x0`, where bit 7 is column 0 (41_display.md R101; notes/assumptions/12.md). -/
def spriteCovers (x0 y0 : Nat) (rows : List Byte) (y : Fin 32) (x : Fin 64) : Bool :=
  decide (x0 ≤ x.val ∧ x.val < x0 + 8 ∧ y0 ≤ y.val) && ((rows[y.val - y0]?).getD 0).getLsbD (7 - (x.val - x0))

/-- A fault record that says no fault is all zero (10_state.md R35, 60_exceptions.md R201). -/
abbrev State.RecordConsistent (s : State) : Prop := s.faultCause = .none → s.faultPc = 0 ∧ s.faultInfo = 0

/-- At most the registers in `dests` changed: no other register, no byte of memory, and no other piece of state. -/
def FrameV (dests : List Reg) (s t : State) : Prop :=
  (∀ z, z ∉ dests → t.reg z = s.reg z) ∧ (∀ a, t.readByte a = s.readByte a) ∧ t = { s with v := t.v }

/-- At most PC changed: no register, no byte of memory, and no other piece of state. -/
def FramePc (s t : State) : Prop :=
  (∀ z, t.reg z = s.reg z) ∧ (∀ a, t.readByte a = s.readByte a) ∧ t = { s with pc := t.pc }

/-- The state a fault of an instruction leaves, from the state `s` in which the instruction ran: the record and PC, and
nothing else (60_exceptions.md R200). -/
def FaultState (s : State) (cause : FaultCause) (info : Word) : State :=
  { s with pc := s.pc - 2, faultCause := cause, faultPc := s.pc - 2, faultInfo := info }

/-- What address `a` reads once `bs` is stored at `base`, `base + 1`, …: the new byte where one is stored, else the old. -/
def State.byteStored (s : State) (base : Nat) (bs : List Byte) (a : Nat) : Byte :=
  if base ≤ a ∧ a < base + bs.length then (bs[a - base]?).getD 0 else s.readByte a

/-- The commands `cs`, in that order, each run from the state the one before left (20_memory.md R60: one total order). -/
def runCommands : (cs : List Command) → State → Host.Outcome State Fault Refusal
  | [], s => .next s
  | c :: cs, s =>
    match runCommand c s with
    | .next t => runCommands cs t
    | stop => stop

/-- `n` steps. -/
def stepTimes : (n : Nat) → State → Host.Outcome State Fault Refusal
  | 0, s => .next s
  | n + 1, s =>
    match step s with
    | .next t => stepTimes n t
    | stop => stop

/-- A NOP (30_encoding.md R84). -/
def isNop (i : Instr) : Prop := ∃ r, i = .nop0 r ∨ i = .nop8 r ∨ i = .nopE r ∨ i = .nopF r

/-- A row of the opcode map (30_encoding.md R78): match, mask, and the instruction with its operands taken as the bit
slices of R71. -/
structure OpcodeRow where
  pattern : Word
  mask    : Word
  instr   : Word → Instr

/-- The slice x = w[11:8], as bits. -/
def sliceX (w : Word) : Reg := Fin.ofNat 16 (w.extractLsb' 8 4).toNat

/-- The slice y = w[7:4], as bits. -/
def sliceY (w : Word) : Reg := Fin.ofNat 16 (w.extractLsb' 4 4).toNat

/-- Rows 1 and 2, 24 and 25, which depend on SUBDECODE_0E (R78). -/
def opcodeRows0E (sd : SubDecode) : List OpcodeRow :=
  match sd with
  | .byte =>
    [⟨0x00E0, 0xF0FF, fun _ => .cls⟩, ⟨0x00EE, 0xF0FF, fun _ => .ret⟩,
     ⟨0xE09E, 0xF0FF, fun w => .skp (sliceX w)⟩, ⟨0xE0A1, 0xF0FF, fun w => .sknp (sliceX w)⟩]
  | .nibble =>
    [⟨0x0000, 0xF00F, fun _ => .cls⟩, ⟨0x000E, 0xF00F, fun _ => .ret⟩,
     ⟨0xE00E, 0xF00F, fun w => .skp (sliceX w)⟩, ⟨0xE001, 0xF00F, fun w => .sknp (sliceX w)⟩]

/-- The 34 instruction rows of R78. -/
def opcodeRows (sd : SubDecode) : List OpcodeRow :=
  opcodeRows0E sd ++
  [⟨0x1000, 0xF000, fun w => .jp (w.extractLsb' 0 12)⟩, ⟨0x2000, 0xF000, fun w => .call (w.extractLsb' 0 12)⟩,
   ⟨0x3000, 0xF000, fun w => .seImm (sliceX w) (w.extractLsb' 0 8)⟩,
   ⟨0x4000, 0xF000, fun w => .sneImm (sliceX w) (w.extractLsb' 0 8)⟩,
   ⟨0x5000, 0xF000, fun w => .seReg (sliceX w) (sliceY w)⟩,
   ⟨0x6000, 0xF000, fun w => .ldImm (sliceX w) (w.extractLsb' 0 8)⟩,
   ⟨0x7000, 0xF000, fun w => .addImm (sliceX w) (w.extractLsb' 0 8)⟩] ++
  [⟨0x8000, 0xF00F, fun w => .ldReg (sliceX w) (sliceY w)⟩, ⟨0x8001, 0xF00F, fun w => .orReg (sliceX w) (sliceY w)⟩,
   ⟨0x8002, 0xF00F, fun w => .andReg (sliceX w) (sliceY w)⟩, ⟨0x8003, 0xF00F, fun w => .xorReg (sliceX w) (sliceY w)⟩,
   ⟨0x8004, 0xF00F, fun w => .addReg (sliceX w) (sliceY w)⟩, ⟨0x8005, 0xF00F, fun w => .subReg (sliceX w) (sliceY w)⟩,
   ⟨0x8006, 0xF00F, fun w => .shrReg (sliceX w) (sliceY w)⟩, ⟨0x8007, 0xF00F, fun w => .subnReg (sliceX w) (sliceY w)⟩,
   ⟨0x800E, 0xF00F, fun w => .shlReg (sliceX w) (sliceY w)⟩] ++
  [⟨0x9000, 0xF000, fun w => .sneReg (sliceX w) (sliceY w)⟩, ⟨0xA000, 0xF000, fun w => .ldI (w.extractLsb' 0 12)⟩,
   ⟨0xB000, 0xF000, fun w => .jpV0 (w.extractLsb' 0 12)⟩,
   ⟨0xC000, 0xF000, fun w => .rnd (sliceX w) (w.extractLsb' 0 8)⟩,
   ⟨0xD000, 0xF000, fun w => .drw (sliceX w) (sliceY w) (Fin.ofNat 16 (w.extractLsb' 0 4).toNat)⟩] ++
  [⟨0xF007, 0xF0FF, fun w => .ldVxDT (sliceX w)⟩, ⟨0xF00A, 0xF0FF, fun w => .ldVxK (sliceX w)⟩,
   ⟨0xF015, 0xF0FF, fun w => .ldDTVx (sliceX w)⟩, ⟨0xF018, 0xF0FF, fun w => .ldSTVx (sliceX w)⟩,
   ⟨0xF01E, 0xF0FF, fun w => .addI (sliceX w)⟩, ⟨0xF029, 0xF0FF, fun w => .ldF (sliceX w)⟩,
   ⟨0xF033, 0xF0FF, fun w => .ldB (sliceX w)⟩, ⟨0xF055, 0xF0FF, fun w => .ldMemVx (sliceX w)⟩,
   ⟨0xF065, 0xF0FF, fun w => .ldVxMem (sliceX w)⟩]

end Sys2Proof.Machine
end

