-- ==== Sys2Proof/Certificates/Slice0/Obligations.lean ====
section
/-!
DEFINITION. The statements for the provers. Each docstring names the rule of spec/ it formalises, or the spec's decision
or the log entry it rests on. Statements about one instruction are about `exec`, in the state in which the instruction runs:
PC is the instruction's address plus 2 there (30_encoding.md R82).
-/

open Sys2Proof Sys2Proof.Machine

/-! ### Encoding and decoding -/

/-- Decoding the encoded bytes of any well-formed instruction, with any bytes after them, gives the instruction back,
under both settings of SUBDECODE_0E: no bit of an operand is dropped. That a NOP carries its word's low 12 bits is the
model's choice (notes/assumptions/8.md): 30_encoding.md R84 gives it no operands. -/
def Obligations.EncodeThenDecodeIsIdentity : Prop :=
  ∀ (sd : SubDecode) (i : Instr) (rest : List Byte), i.wf sd = true → decode sd (encodeBytes i ++ rest) = .ok (i, rest)

/-- Every word decodes to a well-formed instruction whose own word decodes to it; and under SUBDECODE_0E = byte the word
itself comes back, unless it is CLS, RET or a register skip, whose don't-care bits (30_encoding.md R77) the encoder writes
0. That a NOP's word comes back whole, though R84 gives it no operands and w[11:8] of family 0x0 is don't-care, is the
model's choice: a NOP carries its word's low 12 bits (notes/assumptions/8.md). -/
def Obligations.DecodeThenEncodeKeepsTheWord : Prop :=
  (∀ (sd : SubDecode) (w : Word), (decodeWord sd w).wf sd = true ∧
    decodeWord sd (encode (decodeWord sd w)) = decodeWord sd w) ∧
  (∀ w : Word, decodeWord .byte w ≠ .cls → decodeWord .byte w ≠ .ret → (∀ x y, decodeWord .byte w ≠ .seReg x y) →
    (∀ x y, decodeWord .byte w ≠ .sneReg x y) → encode (decodeWord .byte w) = w)

/-- The opcode map (30_encoding.md R78): a word is the instruction of a row when (w & mask) = match, with its operands the
bit slices of R71; NOP catches the rest of families 0x0, 0x8, 0xE and 0xF. Under SUBDECODE_0E = nibble rows 1, 2, 24 and 25
have the other values (so 0x0000 is CLS there, notes/assumptions/15.md). That a NOP carries its word's low 12 bits is the
model's choice (notes/assumptions/8.md). -/
def Obligations.DecoderFollowsTheOpcodeMap : Prop :=
  ∀ (sd : SubDecode) (w : Word),
    (∀ row ∈ opcodeRows sd, w &&& row.mask = row.pattern → decodeWord sd w = row.instr w) ∧
    ((∀ row ∈ opcodeRows sd, w &&& row.mask ≠ row.pattern) →
      (w &&& 0xF000 = 0x0000 ∧ decodeWord sd w = .nop0 (w.extractLsb' 0 12)) ∨
      (w &&& 0xF000 = 0x8000 ∧ decodeWord sd w = .nop8 (w.extractLsb' 0 12)) ∨
      (w &&& 0xF000 = 0xE000 ∧ decodeWord sd w = .nopE (w.extractLsb' 0 12)) ∨
      (w &&& 0xF000 = 0xF000 ∧ decodeWord sd w = .nopF (w.extractLsb' 0 12)))

/-- Sanity: words written out from the encodings of R78 decode to the instructions they stand for. That the two NOPs carry
their words' low 12 bits is the model's choice (notes/assumptions/8.md): R84 gives a NOP no operands. -/
def Obligations.SampleWordsDecode : Prop :=
  decodeTableWord 16 0x00E0 = some .cls ∧ decodeTableWord 16 0x1234 = some (.jp 0x234) ∧
  decodeTableWord 16 0x3210 = some (.seImm 2 0x10) ∧ decodeTableWord 16 0x8125 = some (.subReg 1 2) ∧
  decodeTableWord 16 0x8AB9 = some (.nop8 0xAB9) ∧ decodeTableWord 16 0xD345 = some (.drw 3 4 5) ∧
  decodeTableWord 16 0xE19E = some (.skp 1) ∧ decodeTableWord 16 0xF265 = some (.ldVxMem 2) ∧
  decodeTableWord 16 0xF10A = some (.ldVxK 1) ∧ decodeTableWord 16 0x0123 = some (.nop0 0x123)

/-- R84: under SUBDECODE_0E = byte the NOP words are exactly those listed, and a NOP word executes as a no-op: of a STEP
that fetches one, only Opcode <- w and PC <- PC + 2 remain. (The model's own `rnd` of notes/assumptions/2.md
may change; the statement says nothing about its value.) -/
def Obligations.UnmappedWordsAreNops : Prop :=
  (∀ w : Word, isNop (decodeWord .byte w) ↔
    (w.toNat / 4096 = 0x0 ∧ w.toNat % 256 ∉ [0xE0, 0xEE]) ∨
    (w.toNat / 4096 = 0x8 ∧ w.toNat % 16 ∈ [0x8, 0x9, 0xA, 0xB, 0xC, 0xD, 0xF]) ∨
    (w.toNat / 4096 = 0xE ∧ w.toNat % 256 ∉ [0x9E, 0xA1]) ∨
    (w.toNat / 4096 = 0xF ∧ w.toNat % 256 ∉ [0x07, 0x0A, 0x15, 0x18, 0x1E, 0x29, 0x33, 0x55, 0x65])) ∧
  (∀ (i : Instr) (s : State), isNop i → exec i s = .next s) ∧
  (∀ (rnd : Byte) (s : State), s.faultCause = .none → s.pc.toNat ≤ 0xFFE →
    isNop (decodeWord s.params.subDecode (s.wordAt s.pc.toNat)) →
    ∃ t, stepWith rnd s = .next t ∧ t.opcode = s.wordAt s.pc.toNat ∧ t.pc = s.pc + 2 ∧
      (∀ z, t.reg z = s.reg z) ∧ (∀ a, t.readByte a = s.readByte a) ∧
      t = { s with opcode := t.opcode, pc := t.pc, rnd := t.rnd })

/-- The don't-care bits do not matter (derived in 30_encoding.md R77 and 42_flow.md R118): w[11:8] of family 0x0; w[3:0] of
families 0x5 and 0x9, where every word 5xyn or 9xyn is the register skip on x and y; and under SUBDECODE_0E = nibble also
w[7:4] of families 0x0 and 0xE. -/
def Obligations.IgnoredBitsDoNotMatter : Prop :=
  (∀ (sd : SubDecode) (w u : Word) (s : State), w.toNat / 4096 = 0 → u.toNat / 4096 = 0 →
    w.toNat % 256 = u.toNat % 256 → exec (decodeWord sd w) s = exec (decodeWord sd u) s) ∧
  (∀ (sd : SubDecode) (w : Word), w &&& 0xF000 = 0x5000 → decodeWord sd w = .seReg (sliceX w) (sliceY w)) ∧
  (∀ (sd : SubDecode) (w : Word), w &&& 0xF000 = 0x9000 → decodeWord sd w = .sneReg (sliceX w) (sliceY w)) ∧
  (∀ (w u : Word) (s : State), w.toNat / 4096 = 0 → u.toNat / 4096 = 0 → w.toNat % 16 = u.toNat % 16 →
    exec (decodeWord .nibble w) s = exec (decodeWord .nibble u) s) ∧
  (∀ (w u : Word) (s : State), w.toNat / 4096 = 0xE → u.toNat / 4096 = 0xE → sliceX w = sliceX u →
    w.toNat % 16 = u.toNat % 16 → exec (decodeWord .nibble w) s = exec (decodeWord .nibble u) s)

/-! ### The step -/

/-- STEP runs the decoded instruction (30_encoding.md R80 to R82): when no fault is recorded, PC is at most 0xFFE and the
two bytes at PC decode to `i`, STEP(rnd) is `exec i` in the state with Opcode the word and PC advanced by 2. The model's
own `rnd` is set too (notes/assumptions/2.md). A `step` is that STEP when it is the host's next command; with none named it
is a free command (notes/assumptions/3.md). -/
def Obligations.StepRunsTheDecodedInstruction : Prop :=
  ∀ (s : State) (i : Instr) (rnd : Byte), s.faultCause = .none → s.pc.toNat ≤ 0xFFE →
    decode s.params.subDecode [s.readByte s.pc.toNat, s.readByte (s.pc.toNat + 1)] = .ok (i, []) →
    stepWith rnd s = exec i { s with
      opcode := BitVec.ofNat 16 ((s.readByte s.pc.toNat).toNat * 256 + (s.readByte (s.pc.toNat + 1)).toNat),
      pc := s.pc + 2, rnd := rnd } ∧
    (∀ cs, s.commands = .step rnd :: cs → step s = stepWith rnd { s with commands := cs }) ∧
    (s.commands = [] → step s = runCommand (Config.freeCommand s.hostIndex) { s with hostIndex := s.hostIndex + 1 })

/-- The word placed by `withFetchWord` is the one the very next step runs, from every state with canonical memory
(notes/assumptions/5.md). -/
def Obligations.WithFetchWordRunsThatWord : Prop :=
  ∀ (s : State) (w : Nat), s.MemCanonical → w < 65536 →
    ∃ t, step (s.withFetchWord 16 w) = exec (decodeWord s.params.subDecode (BitVec.ofNat 16 w)) t ∧
      t.opcode = BitVec.ofNat 16 w ∧ t.faultCause = .none ∧ t.v = s.v ∧ t.i = s.i ∧ t.stack = s.stack ∧ t.sp = s.sp ∧
      t.fb = s.fb ∧ t.key = s.key ∧ t.dt = s.dt ∧ t.st = s.st ∧ (s.pc.toNat ≤ 0xFFE → t.pc = s.pc + 2)

/-- Every command completes: no command of the host, and so no step, ends in a stop (60_exceptions.md R229: every STEP
completes). -/
def Obligations.EveryCommandCompletes : Prop :=
  (∀ (i : Instr) (s : State), ∃ t, exec i s = .next t) ∧ (∀ (c : Command) (s : State), ∃ t, runCommand c s = .next t) ∧
  (∀ s : State, ∃ t, step s = .next t)

/-! ### Faults -/

/-- Which fault a STEP records, exactly when, and with which information (60_exceptions.md R201 and R202, the spec's
decisions D7, D8, D10, D11, D12, D14 and D30). -/
def Obligations.FaultsAreRaisedExactlyInTheirCases : Prop :=
  ∀ (rnd : Byte) (s t : State), s.faultCause = .none → stepWith rnd s = .next t →
    (t.faultCause = .fetchOutOfBounds ↔ 0xFFE < s.pc.toNat) ∧
    (t.faultCause = .memReadOutOfBounds ↔ s.pc.toNat ≤ 0xFFE ∧
      ((∃ x y n, s.currentInstr = .drw x y n ∧ 0 < n.val ∧ 0xFFF < s.i.toNat + n.val - 1) ∨
        ∃ x, s.currentInstr = .ldVxMem x ∧ 0xFFF < s.i.toNat + x.val)) ∧
    (t.faultCause = .memWriteOutOfBounds ↔ s.pc.toNat ≤ 0xFFE ∧
      ((∃ x, s.currentInstr = .ldB x ∧ 0xFFF < s.i.toNat + 2) ∨
        ∃ x, s.currentInstr = .ldMemVx x ∧ 0xFFF < s.i.toNat + x.val)) ∧
    (t.faultCause = .stackOverflow ↔ s.pc.toNat ≤ 0xFFE ∧ s.sp.val = 16 ∧ ∃ nnn, s.currentInstr = .call nnn) ∧
    (t.faultCause = .stackUnderflow ↔ s.pc.toNat ≤ 0xFFE ∧ s.sp.val = 0 ∧ s.currentInstr = .ret) ∧
    (t.faultCause = .keyIndexOutOfRange ↔ s.pc.toNat ≤ 0xFFE ∧
      ∃ x, (s.currentInstr = .skp x ∨ s.currentInstr = .sknp x) ∧ 0x0F < (s.reg x).toNat) ∧
    (t.faultCause = .fetchOutOfBounds → t.faultInfo = s.pc) ∧
    (t.faultCause = .memReadOutOfBounds ∨ t.faultCause = .memWriteOutOfBounds →
      t.faultInfo.toNat = max s.i.toNat 0x1000) ∧
    (t.faultCause = .stackOverflow → t.faultInfo = 16) ∧
    (t.faultCause = .stackUnderflow → t.faultInfo = 0) ∧
    (∀ x, t.faultCause = .keyIndexOutOfRange → s.currentInstr = .skp x ∨ s.currentInstr = .sknp x →
      t.faultInfo.toNat = (s.reg x).toNat)

/-- A fault is precise (60_exceptions.md R200, the spec's decision D13): the record names the address PC held when the
STEP began, PC is put back to it, Opcode keeps what the fetch gave it, and nothing else changes (but for the model's own
`rnd`). -/
def Obligations.FaultsArePrecise : Prop :=
  ∀ (rnd : Byte) (s t : State), s.faultCause = .none → stepWith rnd s = .next t → t.faultCause ≠ .none →
    t.faultPc = s.pc ∧ t.pc = s.pc ∧
    (s.pc.toNat ≤ 0xFFE → t.opcode = s.wordAt s.pc.toNat) ∧ (0xFFE < s.pc.toNat → t.opcode = s.opcode) ∧
    (∀ a, t.readByte a = s.readByte a) ∧
    t = { s with faultCause := t.faultCause, faultPc := t.faultPc, faultInfo := t.faultInfo, opcode := t.opcode,
                 rnd := t.rnd }

/-- A faulted core (60_exceptions.md R203, R205, the spec's decision D13): STEP changes no state, TICK and SETKEY still
work and keep the record, and RESET and LOAD clear it. -/
def Obligations.FaultedCoreTakesOnlyOtherCommands : Prop :=
  ∀ s : State, s.faultCause ≠ .none →
    (∀ rnd, runCommand (.step rnd) s = .next s) ∧
    (∃ t, runCommand .tick s = .next t ∧ t.dt.toNat = s.dt.toNat - 1 ∧ t.st.toNat = s.st.toNat - 1 ∧
      t.faultRecord = s.faultRecord) ∧
    (∀ k p, ∃ t, runCommand (.setKey k p) s = .next t ∧ t.keyDown k = p ∧ t.faultRecord = s.faultRecord) ∧
    (∃ t, runCommand .reset s = .next t ∧ t.faultRecord = (0, 0, 0)) ∧
    (∀ rom, ∃ t, runCommand (.load rom) s = .next t ∧ t.faultRecord = (0, 0, 0))

/-- An access through I that reaches above 0xFFF faults as a whole and changes nothing else (20_memory.md R55, the
spec's decisions D7 and D30): the four instructions that access memory through I. -/
def Obligations.OutOfBoundsAccessesFault : Prop :=
  ∀ (s : State) (x y : Reg) (n : Fin 16),
    (0 < n.val → 0xFFF < s.i.toNat + n.val - 1 →
      exec (.drw x y n) s = .next (FaultState s .memReadOutOfBounds (BitVec.ofNat 16 (max s.i.toNat 0x1000)))) ∧
    (0xFFF < s.i.toNat + x.val →
      exec (.ldVxMem x) s = .next (FaultState s .memReadOutOfBounds (BitVec.ofNat 16 (max s.i.toNat 0x1000)))) ∧
    (0xFFF < s.i.toNat + x.val →
      exec (.ldMemVx x) s = .next (FaultState s .memWriteOutOfBounds (BitVec.ofNat 16 (max s.i.toNat 0x1000)))) ∧
    (0xFFF < s.i.toNat + 2 →
      exec (.ldB x) s = .next (FaultState s .memWriteOutOfBounds (BitVec.ofNat 16 (max s.i.toNat 0x1000))))

/-! ### Invariants -/

/-- The RESET state meets the invariants. -/
def Obligations.ResetMeetsTheInvariants : Prop :=
  State.reset.MemCanonical ∧ State.reset.PcBounded ∧ State.reset.RecordConsistent

/-- Every step keeps the memory's canonical form (notes/assumptions/9.md). -/
def Obligations.StepKeepsMemoryCanonical : Prop :=
  ∀ s t : State, s.MemCanonical → step s = .next t → t.MemCanonical

/-- Every step keeps PC at most 0x10FE and every return address at most 0x1000 (derived in 10_state.md R27 and 42_flow.md
R112, R113), so PC never wraps. -/
def Obligations.StepKeepsPcBounded : Prop :=
  ∀ s t : State, s.PcBounded → step s = .next t → t.PcBounded

/-- Every step keeps a record that names no fault all zero: only a fault writes the record (10_state.md R35). -/
def Obligations.StepKeepsRecordConsistent : Prop :=
  ∀ s t : State, s.RecordConsistent → step s = .next t → t.RecordConsistent

/-- No step changes the parameters FONT_BASE, FONT and SUBDECODE_0E (70_reset_and_hazards.md R241). -/
def Obligations.StepKeepsParameters : Prop :=
  ∀ s t : State, step s = .next t → t.params = s.params

/-- Canonical memories that read alike at every address are the same list (notes/assumptions/9.md). -/
def Obligations.CanonicalMemoryIsDeterminedByItsBytes : Prop :=
  ∀ (p : Params) (m m' : Memory), Memory.wf p m = true → Memory.wf p m' = true →
    (∀ a, a < 4096 → Memory.read p a m = Memory.read p a m') → m = m'

/-! ### Whole-machine rules: who writes what -/

/-- No instruction but 1nnn, 2nnn, Bnnn, 00EE, the skips and Fx0A moves PC from where the fetch left it, a fault apart
(10_state.md R26); and I is written only by Annn, Fx1E and Fx29 (R25), DT only by Fx15 and ST only by Fx18 (R30,
30_encoding.md R80: STEP does not decrement a timer). -/
def Obligations.WritersOfPcIndexAndTimers : Prop :=
  ∀ (i : Instr) (s t : State), exec i s = .next t →
    (t.pc = s.pc ∨ t.faultCause ≠ .none ∨ i = .ret ∨
      (∃ nnn, i = .jp nnn ∨ i = .call nnn ∨ i = .jpV0 nnn) ∨
      (∃ x kk, i = .seImm x kk ∨ i = .sneImm x kk) ∨ (∃ x y, i = .seReg x y ∨ i = .sneReg x y) ∨
      ∃ x, i = .skp x ∨ i = .sknp x ∨ i = .ldVxK x) ∧
    (t.i = s.i ∨ (∃ nnn, i = .ldI nnn) ∨ ∃ x, i = .addI x ∨ i = .ldF x) ∧
    (t.dt = s.dt ∨ ∃ x, i = .ldDTVx x) ∧
    (t.st = s.st ∨ ∃ x, i = .ldSTVx x)

/-- The stores apart from the registers (20_memory.md R51 and R54): memory is written only by Fx33 and Fx55, the stack's
entries only by 2nnn, SP only by 2nnn and 00EE, the framebuffer only by 00E0 and Dxyn; and no instruction writes the
keypad or Opcode. -/
def Obligations.WritersOfTheStores : Prop :=
  ∀ (i : Instr) (s t : State), exec i s = .next t →
    ((∀ a, t.readByte a = s.readByte a) ∨ ∃ x, i = .ldB x ∨ i = .ldMemVx x) ∧
    (t.stack = s.stack ∨ ∃ nnn, i = .call nnn) ∧
    (t.sp = s.sp ∨ i = .ret ∨ ∃ nnn, i = .call nnn) ∧
    (t.fb = s.fb ∨ i = .cls ∨ ∃ x y n, i = .drw x y n) ∧
    t.key = s.key ∧ t.opcode = s.opcode

/-- VF (10_state.md R23): only 8xy4 to 8xy7, 8xyE and Dxyn write it as a flag; every other instruction leaves it alone
unless x = 0xF names it as a destination. -/
def Obligations.WritersOfTheFlagRegister : Prop :=
  ∀ (i : Instr) (s t : State), exec i s = .next t →
    t.reg 15 = s.reg 15 ∨
    (∃ x y, i = .addReg x y ∨ i = .subReg x y ∨ i = .shrReg x y ∨ i = .subnReg x y ∨ i = .shlReg x y) ∨
    (∃ x y n, i = .drw x y n) ∨
    (∃ kk, i = .ldImm 15 kk ∨ i = .addImm 15 kk ∨ i = .rnd 15 kk) ∨
    (∃ y, i = .ldReg 15 y ∨ i = .orReg 15 y ∨ i = .andReg 15 y ∨ i = .xorReg 15 y) ∨
    i = .ldVxDT 15 ∨ i = .ldVxK 15 ∨ i = .ldVxMem 15

/-- No instruction reads Opcode (10_state.md R28): its value makes no difference to anything else. -/
def Obligations.OpcodeIsNeverRead : Prop :=
  ∀ (i : Instr) (s t : State) (w : Word), exec i s = .next t →
    exec i { s with opcode := w } = .next { t with opcode := w }

/-- The core reads `rnd` only when the instruction is Cxkk (00_scope.md R7). -/
def Obligations.RandomByteIsReadOnlyByRnd : Prop :=
  ∀ (i : Instr) (s t : State) (b : Byte), (∀ x kk, i ≠ .rnd x kk) → exec i s = .next t →
    exec i { s with rnd := b } = .next { t with rnd := b }

/-! ### Register arithmetic and logic -/

/-- 6xkk, 8xy0 and Fx07 (R131, R133, R183): V[x] gets the immediate, V[y] or DT, and nothing else changes. -/
def Obligations.LoadsSetOneRegister : Prop :=
  ∀ (s : State) (x y : Reg) (kk : Byte),
    (∃ t, exec (.ldImm x kk) s = .next t ∧ t.reg x = kk ∧ FrameV [x] s t) ∧
    (∃ t, exec (.ldReg x y) s = .next t ∧ t.reg x = s.reg y ∧ FrameV [x] s t) ∧
    (∃ t, exec (.ldVxDT x) s = .next t ∧ t.reg x = s.dt ∧ FrameV [x] s t)

/-- 7xkk (R132): V[x] <- (V[x] + kk) mod 256, no flag. -/
def Obligations.AddImmediateWraps : Prop :=
  ∀ (s : State) (x : Reg) (kk : Byte), ∃ t, exec (.addImm x kk) s = .next t ∧
    (t.reg x).toNat = ((s.reg x).toNat + kk.toNat) % 256 ∧ FrameV [x] s t

/-- 8xy1, 8xy2 and 8xy3 (R134, R135, R136), bit by bit; VF is not reset. -/
def Obligations.BitwiseOperations : Prop :=
  ∀ (s : State) (x y : Reg),
    (∃ t, exec (.orReg x y) s = .next t ∧ FrameV [x] s t ∧
      ∀ k, (t.reg x).getLsbD k = ((s.reg x).getLsbD k || (s.reg y).getLsbD k)) ∧
    (∃ t, exec (.andReg x y) s = .next t ∧ FrameV [x] s t ∧
      ∀ k, (t.reg x).getLsbD k = ((s.reg x).getLsbD k && (s.reg y).getLsbD k)) ∧
    (∃ t, exec (.xorReg x y) s = .next t ∧ FrameV [x] s t ∧
      ∀ k, (t.reg x).getLsbD k = Bool.xor ((s.reg x).getLsbD k) ((s.reg y).getLsbD k))

/-- 8xy4 (R138): V[x] is the sum mod 256 and VF the carry, except that with x = 0xF VF ends with the sum. With y = 0xF
the sum uses VF's old value. -/
def Obligations.AddRegistersWithCarry : Prop :=
  ∀ (s : State) (x y : Reg), ∃ t, exec (.addReg x y) s = .next t ∧
    (t.reg x).toNat = ((s.reg x).toNat + (s.reg y).toNat) % 256 ∧
    (x ≠ 15 → t.reg 15 = if 255 < (s.reg x).toNat + (s.reg y).toNat then 1 else 0) ∧ FrameV [x, 15] s t

/-- 8xy5 (43_alu.md, SUB), with the corner cases of the spec's decision D4: VF is 1 when V[x] > V[y], strictly, and the
operands of the subtraction are read after VF is written. -/
def Obligations.SubtractWithNoBorrowFlag : Prop :=
  ∀ (s : State) (x y : Reg) (f : Nat), f = (if (s.reg y).toNat < (s.reg x).toNat then 1 else 0) →
    ∃ t, exec (.subReg x y) s = .next t ∧ FrameV [x, 15] s t ∧
      (x ≠ 15 → (t.reg 15).toNat = f) ∧
      (x ≠ 15 → y ≠ 15 → (t.reg x).toNat = (256 + (s.reg x).toNat - (s.reg y).toNat) % 256) ∧
      (x = 15 → y ≠ 15 → (t.reg 15).toNat = (256 + f - (s.reg y).toNat) % 256) ∧
      (x ≠ 15 → y = 15 → (t.reg x).toNat = (256 + (s.reg x).toNat - f) % 256) ∧
      (x = 15 → y = 15 → t.reg 15 = 0)

/-- 8xy7 (43_alu.md, SUBN), with the corner cases of the spec's decision D4. -/
def Obligations.ReverseSubtractWithNoBorrowFlag : Prop :=
  ∀ (s : State) (x y : Reg) (f : Nat), f = (if (s.reg x).toNat < (s.reg y).toNat then 1 else 0) →
    ∃ t, exec (.subnReg x y) s = .next t ∧ FrameV [x, 15] s t ∧
      (x ≠ 15 → (t.reg 15).toNat = f) ∧
      (x ≠ 15 → y ≠ 15 → (t.reg x).toNat = (256 + (s.reg y).toNat - (s.reg x).toNat) % 256) ∧
      (x = 15 → y ≠ 15 → (t.reg 15).toNat = (256 + (s.reg y).toNat - f) % 256) ∧
      (x ≠ 15 → y = 15 → (t.reg x).toNat = (256 + f - (s.reg x).toNat) % 256) ∧
      (x = 15 → y = 15 → t.reg 15 = 0)

/-- 8xy6 and 8xyE (43_alu.md, SHR and SHL): V[x] shifts by one and VF gets the bit shifted out, whatever y names; with
x = 0xF the shift reads the VF just written (the spec's decision D4). -/
def Obligations.ShiftsByOne : Prop :=
  ∀ (s : State) (x y : Reg),
    (∃ t, exec (.shrReg x y) s = .next t ∧ FrameV [x, 15] s t ∧
      (x ≠ 15 → (t.reg x).toNat = (s.reg x).toNat / 2 ∧ (t.reg 15).toNat = (s.reg x).toNat % 2) ∧
      (x = 15 → t.reg 15 = 0)) ∧
    (∃ t, exec (.shlReg x y) s = .next t ∧ FrameV [x, 15] s t ∧
      (x ≠ 15 → (t.reg x).toNat = (s.reg x).toNat * 2 % 256 ∧ (t.reg 15).toNat = (s.reg x).toNat / 128) ∧
      (x = 15 → (t.reg 15).toNat = (s.reg 15).toNat / 128 * 2))

/-- Cxkk (R143): V[x] <- rnd & kk, for every rnd the STEP is given; the bits outside kk are 0, and kk = 0xFF gives rnd
itself. -/
def Obligations.RandomByteIsMasked : Prop :=
  (∀ (s : State) (x : Reg) (kk : Byte), ∃ t, exec (.rnd x kk) s = .next t ∧ t.reg x = s.rnd &&& kk ∧ FrameV [x] s t) ∧
  (∀ (s : State) (x : Reg) (kk rnd : Byte), s.faultCause = .none → s.pc.toNat ≤ 0xFFE → s.currentInstr = .rnd x kk →
    ∃ t, stepWith rnd s = .next t ∧ (∀ k, (t.reg x).getLsbD k = (rnd.getLsbD k && kk.getLsbD k)) ∧
      (kk = 0xFF → t.reg x = rnd) ∧ (kk = 0x00 → t.reg x = 0x00) ∧ ∀ z, z ≠ x → t.reg z = s.reg z)

/-! ### Index register and memory -/

/-- Annn, Fx1E and Fx29 (R160, R161, R162): I gets nnn, I + V[x] mod 65536, or FONT_BASE + 5 * V[x]; no flag, and nothing
else changes. -/
def Obligations.IndexRegisterWrites : Prop :=
  ∀ (s : State) (x : Reg) (nnn : Addr12),
    (∃ t, exec (.ldI nnn) s = .next t ∧ t.i.toNat = nnn.toNat ∧ t = { s with i := t.i } ∧
      ∀ a, t.readByte a = s.readByte a) ∧
    (∃ t, exec (.addI x) s = .next t ∧ t.i.toNat = (s.i.toNat + (s.reg x).toNat) % 65536 ∧ t = { s with i := t.i } ∧
      ∀ a, t.readByte a = s.readByte a) ∧
    (∃ t, exec (.ldF x) s = .next t ∧ t.i.toNat = s.params.fontBase.val + 5 * (s.reg x).toNat ∧
      t = { s with i := t.i } ∧ ∀ a, t.readByte a = s.readByte a)

/-- Fx33 (44_index_memory.md, LD B): the hundreds, tens and ones of V[x] at I, I + 1, I + 2, every other byte and every
other piece of state as before. It completes when I + 2 is in memory (the spec's decision D7). -/
def Obligations.StoresDecimalDigits : Prop :=
  ∀ (s : State) (x : Reg), s.MemCanonical → s.i.toNat + 2 ≤ 0xFFF →
    ∃ t, exec (.ldB x) s = .next t ∧
      (t.readByte s.i.toNat).toNat = (s.reg x).toNat / 100 ∧
      (t.readByte (s.i.toNat + 1)).toNat = (s.reg x).toNat / 10 % 10 ∧
      (t.readByte (s.i.toNat + 2)).toNat = (s.reg x).toNat % 10 ∧
      (∀ a, a < s.i.toNat ∨ s.i.toNat + 2 < a → t.readByte a = s.readByte a) ∧ t = { s with mem := t.mem }

/-- Fx55 (44_index_memory.md, LD [I], Vx): V0..Vx at I..I+x, every other byte and every other piece of state as before, I
included (the spec's decisions D7 and D15). -/
def Obligations.StoresRegisters : Prop :=
  ∀ (s : State) (x : Reg), s.MemCanonical → s.i.toNat + x.val ≤ 0xFFF →
    ∃ t, exec (.ldMemVx x) s = .next t ∧ (∀ z : Reg, z ≤ x → t.readByte (s.i.toNat + z.val) = s.reg z) ∧
      (∀ a, a < s.i.toNat ∨ s.i.toNat + x.val < a → t.readByte a = s.readByte a) ∧ t = { s with mem := t.mem }

/-- Fx65 (44_index_memory.md, LD Vx, [I]): memory at I..I+x into V0..Vx, every other register and every other piece of
state as before, I included (the spec's decisions D7 and D15). -/
def Obligations.LoadsRegisters : Prop :=
  ∀ (s : State) (x : Reg), s.i.toNat + x.val ≤ 0xFFF →
    ∃ t, exec (.ldVxMem x) s = .next t ∧ (∀ z : Reg, z ≤ x → t.reg z = s.readByte (s.i.toNat + z.val)) ∧
      (∀ z : Reg, x < z → t.reg z = s.reg z) ∧ (∀ a, t.readByte a = s.readByte a) ∧ t = { s with v := t.v }

/-- What Fx33 and Fx55 store is what the very next fetch reads (derived in 20_memory.md R62 and R53): after either, the word
at any address has the new byte in each half that was stored to, the high half for the byte at the lower address, and the
old byte in each half that was not; and the very next STEP runs the instruction that the word at PC then is. -/
def Obligations.StoresAreSeenByTheNextFetch : Prop :=
  ∀ (s : State) (x : Reg) (i : Instr) (bs : List Byte), s.MemCanonical →
    (i = .ldB x ∧ bs = bcdDigits (s.reg x)) ∨ (i = .ldMemVx x ∧ bs = s.regsUpTo x) → s.i.toNat + bs.length ≤ 0x1000 →
    ∃ t, exec i s = .next t ∧
      (∀ a, (t.wordAt a).toNat =
        (s.byteStored s.i.toNat bs a).toNat * 256 + (s.byteStored s.i.toNat bs (a + 1)).toNat) ∧
      (∀ rnd, s.faultCause = .none → s.pc.toNat ≤ 0xFFE →
        stepWith rnd t = exec (decodeWord s.params.subDecode (BitVec.ofNat 16
          ((s.byteStored s.i.toNat bs s.pc.toNat).toNat * 256 + (s.byteStored s.i.toNat bs (s.pc.toNat + 1)).toNat)))
          (t.afterFetch rnd))

/-! ### Control transfer -/

/-- 1nnn and Bnnn (R111, R119): PC <- nnn, and PC <- V0 + nnn, which is not reduced mod 4096. -/
def Obligations.JumpsSetPc : Prop :=
  ∀ (s : State) (nnn : Addr12),
    (∃ t, exec (.jp nnn) s = .next t ∧ t.pc.toNat = nnn.toNat ∧ FramePc s t) ∧
    (∃ t, exec (.jpV0 nnn) s = .next t ∧ t.pc.toNat = (s.reg 0).toNat + nnn.toNat ∧ FramePc s t)

/-- 2nnn (42_flow.md, CALL): with SP below 16, Stack[SP] gets PC (the CALL's address plus 2), SP goes up by one, PC <- nnn,
and nothing else changes; at SP = 16 it is STACK_OVERFLOW with info 16 (the spec's decision D10). -/
def Obligations.CallPushesTheReturnAddress : Prop :=
  ∀ (s : State) (nnn : Addr12),
    (s.sp.val < 16 → ∃ t, exec (.call nnn) s = .next t ∧ t.pc.toNat = nnn.toNat ∧ t.sp.val = s.sp.val + 1 ∧
      (∀ j : Fin 16, t.stack[j] = if j.val = s.sp.val then s.pc else s.stack[j]) ∧
      (∀ z, t.reg z = s.reg z) ∧ (∀ a, t.readByte a = s.readByte a) ∧
      t = { s with stack := t.stack, sp := t.sp, pc := t.pc }) ∧
    (s.sp.val = 16 → exec (.call nnn) s = .next (FaultState s .stackOverflow 16))

/-- 00EE (42_flow.md, RET): with SP above 0, SP goes down by one and PC <- Stack[SP]; no entry changes, nor anything else; at
SP = 0 it is STACK_UNDERFLOW with info 0 (the spec's decision D11). -/
def Obligations.RetPopsTheReturnAddress : Prop :=
  ∀ s : State,
    (∀ j : Fin 16, s.sp.val = j.val + 1 → ∃ t, exec .ret s = .next t ∧ t.sp.val = j.val ∧ t.pc = s.stack[j] ∧
      (∀ z, t.reg z = s.reg z) ∧ (∀ a, t.readByte a = s.readByte a) ∧ t = { s with sp := t.sp, pc := t.pc }) ∧
    (s.sp.val = 0 → exec .ret s = .next (FaultState s .stackUnderflow 0))

/-- A subroutine's return comes back to the instruction after its call, whatever the subroutine did, as long as it left SP
and the pushed entry alone (95_test_vectors.md L1, entry 6). -/
def Obligations.RetUndoesCall : Prop :=
  ∀ (s t u : State) (nnn : Addr12) (j : Fin 16), s.sp.val = j.val → exec (.call nnn) s = .next t → u.sp = t.sp →
    u.stack[j] = t.stack[j] → ∃ r, exec .ret u = .next r ∧ r.pc = s.pc ∧ r.sp = s.sp

/-- 3xkk, 4xkk, 5xy0 and 9xy0 (R114, R115, R116, R117): PC goes 2 further exactly when the condition holds, and nothing
else changes. -/
def Obligations.SkipsOnTheirConditions : Prop :=
  ∀ (s : State) (x y : Reg) (kk : Byte),
    (∃ t, exec (.seImm x kk) s = .next t ∧ t.pc = (if s.reg x = kk then s.pc + 2 else s.pc) ∧ FramePc s t) ∧
    (∃ t, exec (.sneImm x kk) s = .next t ∧ t.pc = (if s.reg x = kk then s.pc else s.pc + 2) ∧ FramePc s t) ∧
    (∃ t, exec (.seReg x y) s = .next t ∧ t.pc = (if s.reg x = s.reg y then s.pc + 2 else s.pc) ∧ FramePc s t) ∧
    (∃ t, exec (.sneReg x y) s = .next t ∧ t.pc = (if s.reg x = s.reg y then s.pc else s.pc + 2) ∧ FramePc s t)

/-! ### Keypad and timers -/

/-- Ex9E and ExA1 (45_keypad_timers.md, SKP and SKNP): with a key number in V[x] they skip exactly when that key is pressed,
or is not; above 0x0F they are KEY_INDEX_OUT_OF_RANGE with info V[x] (the spec's decision D12). -/
def Obligations.KeySkips : Prop :=
  ∀ (s : State) (x : Reg),
    (∀ k : KeyId, (s.reg x).toNat = k.val →
      (∃ t, exec (.skp x) s = .next t ∧ t.pc = (if s.keyDown k = true then s.pc + 2 else s.pc) ∧ FramePc s t) ∧
      (∃ t, exec (.sknp x) s = .next t ∧ t.pc = (if s.keyDown k = true then s.pc else s.pc + 2) ∧ FramePc s t)) ∧
    (0x0F < (s.reg x).toNat →
      exec (.skp x) s = .next (FaultState s .keyIndexOutOfRange (BitVec.ofNat 16 (s.reg x).toNat)) ∧
      exec (.sknp x) s = .next (FaultState s .keyIndexOutOfRange (BitVec.ofNat 16 (s.reg x).toNat)))

/-- Fx0A (R182): V[x] gets the lowest-numbered pressed key; with no key pressed PC goes back to this instruction's address
and nothing else changes. -/
def Obligations.WaitsForTheLowestKey : Prop :=
  ∀ (s : State) (x : Reg),
    (∀ k : KeyId, s.keyDown k = true → (∀ j, j < k → s.keyDown j = false) →
      ∃ t, exec (.ldVxK x) s = .next t ∧ (t.reg x).toNat = k.val ∧ FrameV [x] s t) ∧
    ((∀ k, s.keyDown k = false) → ∃ t, exec (.ldVxK x) s = .next t ∧ t.pc = s.pc - 2 ∧ FramePc s t)

/-- Fx15 and Fx18 (R184, R185): DT or ST gets V[x], and nothing else changes; the sound output follows ST at once. -/
def Obligations.TimerWrites : Prop :=
  ∀ (s : State) (x : Reg),
    (∃ t, exec (.ldDTVx x) s = .next t ∧ t.dt = s.reg x ∧ t = { s with dt := t.dt } ∧ ∀ a, t.readByte a = s.readByte a) ∧
    (∃ t, exec (.ldSTVx x) s = .next t ∧ t.st = s.reg x ∧ (t.soundOn = true ↔ s.reg x ≠ 0) ∧ t = { s with st := t.st } ∧
      ∀ a, t.readByte a = s.readByte a)

/-! ### Display -/

/-- 00E0 (R100): every pixel 0, VF and everything else unchanged. -/
def Obligations.ClsClearsEveryPixel : Prop :=
  ∀ s : State, ∃ t, exec .cls s = .next t ∧ (∀ y x, t.pixel y x = false) ∧ (∀ z, t.reg z = s.reg z) ∧
    (∀ a, t.readByte a = s.readByte a) ∧ t = { s with fb := t.fb }

/-- Dxyn (41_display.md, DRW, with the spec's decisions D5, D6 and D30): every on-screen pixel is XORed with the bit of the
sprite that falls on it, the sprite clipped and not wrapped, bit 7 leftmost; VF ends 1 exactly when a set bit met a pixel
that was on; nothing else changes. -/
def Obligations.DrwXorsTheSprite : Prop :=
  ∀ (s : State) (vx vy : Reg) (n : Fin 16) (bit : Fin 32 → Fin 64 → Bool), s.i.toNat + n.val ≤ 0x1000 ∨ n.val = 0 →
    (∀ py px, bit py px =
      (decide ((s.reg vy).toNat % 32 ≤ py.val ∧ py.val < (s.reg vy).toNat % 32 + n.val ∧
        (s.reg vx).toNat % 64 ≤ px.val ∧ px.val < (s.reg vx).toNat % 64 + 8) &&
      (s.readByte (s.i.toNat + (py.val - (s.reg vy).toNat % 32))).getLsbD (7 - (px.val - (s.reg vx).toNat % 64)))) →
    ∃ t, exec (.drw vx vy n) s = .next t ∧
      (∀ py px, t.pixel py px = Bool.xor (s.pixel py px) (bit py px)) ∧
      (t.reg 15 = 1 ∨ t.reg 15 = 0) ∧ (t.reg 15 = 1 ↔ ∃ py px, bit py px = true ∧ s.pixel py px = true) ∧
      (∀ z, z ≠ 15 → t.reg z = s.reg z) ∧ (∀ a, t.readByte a = s.readByte a) ∧ t = { s with fb := t.fb, v := t.v }

/-- Drawing is its own inverse (derived in 41_display.md R103; 90_conflicts.md C10): a second DRW with the same I, sprite
bytes, row count and origin, on the framebuffer the first left, restores every pixel, and it reports a collision exactly
when some pixel the first draw toggled is on after it. -/
def Obligations.DrawingTwiceRestoresTheScreen : Prop :=
  ∀ (s t u r : State) (x y x' y' : Reg) (n : Fin 16), s.i.toNat + n.val ≤ 0x1000 ∨ n.val = 0 →
    exec (.drw x y n) s = .next t → u.fb = t.fb → u.i = s.i →
    (∀ k, k < n.val → u.readByte (s.i.toNat + k) = s.readByte (s.i.toNat + k)) →
    (u.reg x').toNat % 64 = (s.reg x).toNat % 64 → (u.reg y').toNat % 32 = (s.reg y).toNat % 32 →
    exec (.drw x' y' n) u = .next r →
    r.fb = s.fb ∧ (r.reg 15 = 1 ↔ ∃ py px, t.pixel py px ≠ s.pixel py px ∧ t.pixel py px = true)

/-! ### Commands and outputs -/

/-- TICK (R220): DT and ST each go down by 1 if above 0, independently; nothing else changes. -/
def Obligations.TickCountsTheTimersDown : Prop :=
  ∀ s : State, ∃ t, runCommand .tick s = .next t ∧ t.dt.toNat = s.dt.toNat - 1 ∧ t.st.toNat = s.st.toNat - 1 ∧
    (∀ z, t.reg z = s.reg z) ∧ (∀ a, t.readByte a = s.readByte a) ∧ t = { s with dt := t.dt, st := t.st }

/-- SETKEY(k, p) (60_exceptions.md, keypad, with the spec's decision D27 on the index): Key[k] <- p and nothing else. -/
def Obligations.SetKeyWritesOneKey : Prop :=
  ∀ (s : State) (k : KeyId) (p : Bool), ∃ t, runCommand (.setKey k p) s = .next t ∧ t.keyDown k = p ∧
    (∀ j, j ≠ k → t.keyDown j = s.keyDown j) ∧ t = { s with key := t.key }

/-- RESET (R40): every piece of state has the value of the table, whatever the state before; the parameters stay (R241), and so
does the model's own data about the host (notes/assumptions/2.md, 3.md). -/
def Obligations.ResetGivesTheTabulatedValues : Prop :=
  ∀ s : State, ∃ t, runCommand .reset s = .next t ∧
    (∀ x, t.reg x = 0x00) ∧ t.i = 0x0000 ∧ t.pc = 0x0200 ∧ t.sp = 0 ∧ (∀ j : Fin 16, t.stack[j] = 0x0000) ∧
    t.dt = 0x00 ∧ t.st = 0x00 ∧ t.opcode = 0x0000 ∧
    (∀ j : Fin 80, t.readByte (s.params.fontBase.val + j.val) = s.params.font[j]) ∧
    (∀ a, a < s.params.fontBase.val ∨ s.params.fontBase.val + 79 < a → t.readByte a = 0x00) ∧
    (∀ y x, t.pixel y x = false) ∧ (∀ k, t.keyDown k = false) ∧ t.faultRecord = (0, 0x0000, 0x0000) ∧
    t.params = s.params ∧ t.commands = s.commands ∧ t.hostIndex = s.hostIndex

/-- LOAD(rom) (70_reset_and_hazards.md, LOAD): the RESET state, with as many ROM bytes as fit copied to 0x200 upward and the rest
dropped. -/
def Obligations.LoadPlacesTheRom : Prop :=
  ∀ (s : State) (rom : List Byte), ∃ t r, runCommand .reset s = .next r ∧ runCommand (.load rom) s = .next t ∧
    (∀ k (h : k < rom.length), k < 3584 → t.readByte (0x200 + k) = rom[k]) ∧
    (∀ a, a < 0x200 ∨ 0x200 + rom.length ≤ a ∨ 0x1000 ≤ a → t.readByte a = r.readByte a) ∧
    t = { r with mem := t.mem } ∧ (rom = [] → t = r)

/-- A loaded program starts at its first word: after LOAD of at least two bytes, the next STEP runs the instruction those
bytes are, big-endian (20_memory.md R53). -/
def Obligations.LoadedProgramStartsAtItsFirstWord : Prop :=
  ∀ (s t : State) (b0 b1 : Byte) (rom : List Byte) (rnd : Byte), runCommand (.load (b0 :: b1 :: rom)) s = .next t →
    ∃ u, stepWith rnd t = exec (decodeWord s.params.subDecode (BitVec.ofNat 16 (b0.toNat * 256 + b1.toNat))) u ∧
      u.pc = 0x202 ∧ u.v = t.v ∧ u.mem = t.mem

/-- The display and sound outputs (R224, R225): the grid is row-major, pixel (x, y) at element y * 64 + x, with the 32-bit
form all ones or zero; the sound is on when ST > 0. -/
def Obligations.OutputsShowFramebufferAndSound : Prop :=
  ∀ s : State, s.displayGrid.length = 2048 ∧
    (∀ (y : Fin 32) (x : Fin 64), s.displayGrid[y.val * 64 + x.val]? = some (s.pixel y x)) ∧
    pixelWord32 true = 0xFFFFFFFF ∧ pixelWord32 false = 0x00000000 ∧ (s.soundOn = true ↔ 0 < s.st.toNat)

/-- The ends of a run (70_reset_and_hazards.md R250, the spec's decision D20): a self-jump is a fixed point of STEP but for
Opcode, a faulted core stays as it is, and a core waiting for a key stays where it is but for Opcode (and the model's own
`rnd`). -/
def Obligations.EndsOfARunAreStable : Prop :=
  ∀ (rnd : Byte) (s t : State), s.runStatus ≠ .running → stepWith rnd s = .next t →
    t.runStatus = s.runStatus ∧ t = { s with opcode := t.opcode, rnd := t.rnd } ∧
    (s.runStatus = .faulted → t = s) ∧ (s.runStatus ≠ .faulted → t.opcode = s.wordAt s.pc.toNat)

/-- Any sequence of commands is possible (00_scope.md R6, 60_exceptions.md R230): a step runs the host's next command, the one
it has named, or a free one when it has named none; and every finite sequence of commands, run from any state, is a run of
the steps of that state with the sequence as the host's commands. That a command is named in the state is the model's choice
(notes/assumptions/3.md). -/
def Obligations.AnySequenceOfCommandsIsPossible : Prop :=
  (∀ (s : State) (c : Command) (cs : List Command), s.commands = c :: cs →
    step s = runCommand c { s with commands := cs }) ∧
  (∀ s : State, s.commands = [] →
    step s = runCommand (Config.freeCommand s.hostIndex) { s with hostIndex := s.hostIndex + 1 }) ∧
  (∀ (s : State) (cs : List Command), ∃ t, runCommands cs s = .next t ∧
    stepTimes cs.length { s with commands := cs } = .next { t with commands := [] })
end

