-- ==== Sys2Proof/Laws/State.lean ====
section
/-!
SUPPORT. One lemma per field and per named update of the state, and the accessors an update leaves alone, all true by
`rfl`, so that no later proof unfolds a record update.
-/

namespace Sys2Proof.Machine

section
variable (s : State)


/-! `setReg` -/

@[simp] theorem State.setReg_v (x : Reg) (b : Byte) : (s.setReg x b).v = s.v.set x.val b x.isLt := rfl
@[simp] theorem State.setReg_i (x : Reg) (b : Byte) : (s.setReg x b).i = s.i := rfl
@[simp] theorem State.setReg_pc (x : Reg) (b : Byte) : (s.setReg x b).pc = s.pc := rfl
@[simp] theorem State.setReg_opcode (x : Reg) (b : Byte) : (s.setReg x b).opcode = s.opcode := rfl
@[simp] theorem State.setReg_stack (x : Reg) (b : Byte) : (s.setReg x b).stack = s.stack := rfl
@[simp] theorem State.setReg_sp (x : Reg) (b : Byte) : (s.setReg x b).sp = s.sp := rfl
@[simp] theorem State.setReg_dt (x : Reg) (b : Byte) : (s.setReg x b).dt = s.dt := rfl
@[simp] theorem State.setReg_st (x : Reg) (b : Byte) : (s.setReg x b).st = s.st := rfl
@[simp] theorem State.setReg_mem (x : Reg) (b : Byte) : (s.setReg x b).mem = s.mem := rfl
@[simp] theorem State.setReg_fb (x : Reg) (b : Byte) : (s.setReg x b).fb = s.fb := rfl
@[simp] theorem State.setReg_key (x : Reg) (b : Byte) : (s.setReg x b).key = s.key := rfl
@[simp] theorem State.setReg_faultCause (x : Reg) (b : Byte) : (s.setReg x b).faultCause = s.faultCause := rfl
@[simp] theorem State.setReg_faultPc (x : Reg) (b : Byte) : (s.setReg x b).faultPc = s.faultPc := rfl
@[simp] theorem State.setReg_faultInfo (x : Reg) (b : Byte) : (s.setReg x b).faultInfo = s.faultInfo := rfl
@[simp] theorem State.setReg_params (x : Reg) (b : Byte) : (s.setReg x b).params = s.params := rfl
@[simp] theorem State.setReg_commands (x : Reg) (b : Byte) : (s.setReg x b).commands = s.commands := rfl
@[simp] theorem State.setReg_rnd (x : Reg) (b : Byte) : (s.setReg x b).rnd = s.rnd := rfl
@[simp] theorem State.setReg_hostIndex (x : Reg) (b : Byte) : (s.setReg x b).hostIndex = s.hostIndex := rfl
@[simp] theorem State.setReg_readByte (x : Reg) (b : Byte) (ad : Nat) : (s.setReg x b).readByte ad = s.readByte ad := rfl
@[simp] theorem State.setReg_pixel (x : Reg) (b : Byte) (y : Fin 32) (w : Fin 64) : (s.setReg x b).pixel y w = s.pixel y w := rfl
@[simp] theorem State.setReg_keyDown (x : Reg) (b : Byte) (j : KeyId) : (s.setReg x b).keyDown j = s.keyDown j := rfl
@[simp] theorem State.setReg_lowestKey (x : Reg) (b : Byte) : (s.setReg x b).lowestKey = s.lowestKey := rfl
@[simp] theorem State.setReg_faulted (x : Reg) (b : Byte) : (s.setReg x b).faulted = s.faulted := rfl
@[simp] theorem State.setReg_wordAt (x : Reg) (b : Byte) (ad : Nat) : (s.setReg x b).wordAt ad = s.wordAt ad := rfl

/-! `setI` -/

@[simp] theorem State.setI_v (a : Word) : (s.setI a).v = s.v := rfl
@[simp] theorem State.setI_i (a : Word) : (s.setI a).i = a := rfl
@[simp] theorem State.setI_pc (a : Word) : (s.setI a).pc = s.pc := rfl
@[simp] theorem State.setI_opcode (a : Word) : (s.setI a).opcode = s.opcode := rfl
@[simp] theorem State.setI_stack (a : Word) : (s.setI a).stack = s.stack := rfl
@[simp] theorem State.setI_sp (a : Word) : (s.setI a).sp = s.sp := rfl
@[simp] theorem State.setI_dt (a : Word) : (s.setI a).dt = s.dt := rfl
@[simp] theorem State.setI_st (a : Word) : (s.setI a).st = s.st := rfl
@[simp] theorem State.setI_mem (a : Word) : (s.setI a).mem = s.mem := rfl
@[simp] theorem State.setI_fb (a : Word) : (s.setI a).fb = s.fb := rfl
@[simp] theorem State.setI_key (a : Word) : (s.setI a).key = s.key := rfl
@[simp] theorem State.setI_faultCause (a : Word) : (s.setI a).faultCause = s.faultCause := rfl
@[simp] theorem State.setI_faultPc (a : Word) : (s.setI a).faultPc = s.faultPc := rfl
@[simp] theorem State.setI_faultInfo (a : Word) : (s.setI a).faultInfo = s.faultInfo := rfl
@[simp] theorem State.setI_params (a : Word) : (s.setI a).params = s.params := rfl
@[simp] theorem State.setI_commands (a : Word) : (s.setI a).commands = s.commands := rfl
@[simp] theorem State.setI_rnd (a : Word) : (s.setI a).rnd = s.rnd := rfl
@[simp] theorem State.setI_hostIndex (a : Word) : (s.setI a).hostIndex = s.hostIndex := rfl
@[simp] theorem State.setI_reg (a : Word) (z : Reg) : (s.setI a).reg z = s.reg z := rfl
@[simp] theorem State.setI_readByte (a : Word) (ad : Nat) : (s.setI a).readByte ad = s.readByte ad := rfl
@[simp] theorem State.setI_pixel (a : Word) (y : Fin 32) (w : Fin 64) : (s.setI a).pixel y w = s.pixel y w := rfl
@[simp] theorem State.setI_keyDown (a : Word) (j : KeyId) : (s.setI a).keyDown j = s.keyDown j := rfl
@[simp] theorem State.setI_lowestKey (a : Word) : (s.setI a).lowestKey = s.lowestKey := rfl
@[simp] theorem State.setI_faulted (a : Word) : (s.setI a).faulted = s.faulted := rfl
@[simp] theorem State.setI_wordAt (a : Word) (ad : Nat) : (s.setI a).wordAt ad = s.wordAt ad := rfl

/-! `setPc` -/

@[simp] theorem State.setPc_v (a : Word) : (s.setPc a).v = s.v := rfl
@[simp] theorem State.setPc_i (a : Word) : (s.setPc a).i = s.i := rfl
@[simp] theorem State.setPc_pc (a : Word) : (s.setPc a).pc = a := rfl
@[simp] theorem State.setPc_opcode (a : Word) : (s.setPc a).opcode = s.opcode := rfl
@[simp] theorem State.setPc_stack (a : Word) : (s.setPc a).stack = s.stack := rfl
@[simp] theorem State.setPc_sp (a : Word) : (s.setPc a).sp = s.sp := rfl
@[simp] theorem State.setPc_dt (a : Word) : (s.setPc a).dt = s.dt := rfl
@[simp] theorem State.setPc_st (a : Word) : (s.setPc a).st = s.st := rfl
@[simp] theorem State.setPc_mem (a : Word) : (s.setPc a).mem = s.mem := rfl
@[simp] theorem State.setPc_fb (a : Word) : (s.setPc a).fb = s.fb := rfl
@[simp] theorem State.setPc_key (a : Word) : (s.setPc a).key = s.key := rfl
@[simp] theorem State.setPc_faultCause (a : Word) : (s.setPc a).faultCause = s.faultCause := rfl
@[simp] theorem State.setPc_faultPc (a : Word) : (s.setPc a).faultPc = s.faultPc := rfl
@[simp] theorem State.setPc_faultInfo (a : Word) : (s.setPc a).faultInfo = s.faultInfo := rfl
@[simp] theorem State.setPc_params (a : Word) : (s.setPc a).params = s.params := rfl
@[simp] theorem State.setPc_commands (a : Word) : (s.setPc a).commands = s.commands := rfl
@[simp] theorem State.setPc_rnd (a : Word) : (s.setPc a).rnd = s.rnd := rfl
@[simp] theorem State.setPc_hostIndex (a : Word) : (s.setPc a).hostIndex = s.hostIndex := rfl
@[simp] theorem State.setPc_reg (a : Word) (z : Reg) : (s.setPc a).reg z = s.reg z := rfl
@[simp] theorem State.setPc_readByte (a : Word) (ad : Nat) : (s.setPc a).readByte ad = s.readByte ad := rfl
@[simp] theorem State.setPc_pixel (a : Word) (y : Fin 32) (w : Fin 64) : (s.setPc a).pixel y w = s.pixel y w := rfl
@[simp] theorem State.setPc_keyDown (a : Word) (j : KeyId) : (s.setPc a).keyDown j = s.keyDown j := rfl
@[simp] theorem State.setPc_lowestKey (a : Word) : (s.setPc a).lowestKey = s.lowestKey := rfl
@[simp] theorem State.setPc_faulted (a : Word) : (s.setPc a).faulted = s.faulted := rfl
@[simp] theorem State.setPc_wordAt (a : Word) (ad : Nat) : (s.setPc a).wordAt ad = s.wordAt ad := rfl

/-! `setDt` -/

@[simp] theorem State.setDt_v (b : Byte) : (s.setDt b).v = s.v := rfl
@[simp] theorem State.setDt_i (b : Byte) : (s.setDt b).i = s.i := rfl
@[simp] theorem State.setDt_pc (b : Byte) : (s.setDt b).pc = s.pc := rfl
@[simp] theorem State.setDt_opcode (b : Byte) : (s.setDt b).opcode = s.opcode := rfl
@[simp] theorem State.setDt_stack (b : Byte) : (s.setDt b).stack = s.stack := rfl
@[simp] theorem State.setDt_sp (b : Byte) : (s.setDt b).sp = s.sp := rfl
@[simp] theorem State.setDt_dt (b : Byte) : (s.setDt b).dt = b := rfl
@[simp] theorem State.setDt_st (b : Byte) : (s.setDt b).st = s.st := rfl
@[simp] theorem State.setDt_mem (b : Byte) : (s.setDt b).mem = s.mem := rfl
@[simp] theorem State.setDt_fb (b : Byte) : (s.setDt b).fb = s.fb := rfl
@[simp] theorem State.setDt_key (b : Byte) : (s.setDt b).key = s.key := rfl
@[simp] theorem State.setDt_faultCause (b : Byte) : (s.setDt b).faultCause = s.faultCause := rfl
@[simp] theorem State.setDt_faultPc (b : Byte) : (s.setDt b).faultPc = s.faultPc := rfl
@[simp] theorem State.setDt_faultInfo (b : Byte) : (s.setDt b).faultInfo = s.faultInfo := rfl
@[simp] theorem State.setDt_params (b : Byte) : (s.setDt b).params = s.params := rfl
@[simp] theorem State.setDt_commands (b : Byte) : (s.setDt b).commands = s.commands := rfl
@[simp] theorem State.setDt_rnd (b : Byte) : (s.setDt b).rnd = s.rnd := rfl
@[simp] theorem State.setDt_hostIndex (b : Byte) : (s.setDt b).hostIndex = s.hostIndex := rfl
@[simp] theorem State.setDt_reg (b : Byte) (z : Reg) : (s.setDt b).reg z = s.reg z := rfl
@[simp] theorem State.setDt_readByte (b : Byte) (ad : Nat) : (s.setDt b).readByte ad = s.readByte ad := rfl
@[simp] theorem State.setDt_pixel (b : Byte) (y : Fin 32) (w : Fin 64) : (s.setDt b).pixel y w = s.pixel y w := rfl
@[simp] theorem State.setDt_keyDown (b : Byte) (j : KeyId) : (s.setDt b).keyDown j = s.keyDown j := rfl
@[simp] theorem State.setDt_lowestKey (b : Byte) : (s.setDt b).lowestKey = s.lowestKey := rfl
@[simp] theorem State.setDt_faulted (b : Byte) : (s.setDt b).faulted = s.faulted := rfl
@[simp] theorem State.setDt_wordAt (b : Byte) (ad : Nat) : (s.setDt b).wordAt ad = s.wordAt ad := rfl

/-! `setSt` -/

@[simp] theorem State.setSt_v (b : Byte) : (s.setSt b).v = s.v := rfl
@[simp] theorem State.setSt_i (b : Byte) : (s.setSt b).i = s.i := rfl
@[simp] theorem State.setSt_pc (b : Byte) : (s.setSt b).pc = s.pc := rfl
@[simp] theorem State.setSt_opcode (b : Byte) : (s.setSt b).opcode = s.opcode := rfl
@[simp] theorem State.setSt_stack (b : Byte) : (s.setSt b).stack = s.stack := rfl
@[simp] theorem State.setSt_sp (b : Byte) : (s.setSt b).sp = s.sp := rfl
@[simp] theorem State.setSt_dt (b : Byte) : (s.setSt b).dt = s.dt := rfl
@[simp] theorem State.setSt_st (b : Byte) : (s.setSt b).st = b := rfl
@[simp] theorem State.setSt_mem (b : Byte) : (s.setSt b).mem = s.mem := rfl
@[simp] theorem State.setSt_fb (b : Byte) : (s.setSt b).fb = s.fb := rfl
@[simp] theorem State.setSt_key (b : Byte) : (s.setSt b).key = s.key := rfl
@[simp] theorem State.setSt_faultCause (b : Byte) : (s.setSt b).faultCause = s.faultCause := rfl
@[simp] theorem State.setSt_faultPc (b : Byte) : (s.setSt b).faultPc = s.faultPc := rfl
@[simp] theorem State.setSt_faultInfo (b : Byte) : (s.setSt b).faultInfo = s.faultInfo := rfl
@[simp] theorem State.setSt_params (b : Byte) : (s.setSt b).params = s.params := rfl
@[simp] theorem State.setSt_commands (b : Byte) : (s.setSt b).commands = s.commands := rfl
@[simp] theorem State.setSt_rnd (b : Byte) : (s.setSt b).rnd = s.rnd := rfl
@[simp] theorem State.setSt_hostIndex (b : Byte) : (s.setSt b).hostIndex = s.hostIndex := rfl
@[simp] theorem State.setSt_reg (b : Byte) (z : Reg) : (s.setSt b).reg z = s.reg z := rfl
@[simp] theorem State.setSt_readByte (b : Byte) (ad : Nat) : (s.setSt b).readByte ad = s.readByte ad := rfl
@[simp] theorem State.setSt_pixel (b : Byte) (y : Fin 32) (w : Fin 64) : (s.setSt b).pixel y w = s.pixel y w := rfl
@[simp] theorem State.setSt_keyDown (b : Byte) (j : KeyId) : (s.setSt b).keyDown j = s.keyDown j := rfl
@[simp] theorem State.setSt_lowestKey (b : Byte) : (s.setSt b).lowestKey = s.lowestKey := rfl
@[simp] theorem State.setSt_faulted (b : Byte) : (s.setSt b).faulted = s.faulted := rfl
@[simp] theorem State.setSt_wordAt (b : Byte) (ad : Nat) : (s.setSt b).wordAt ad = s.wordAt ad := rfl

/-! `setFb` -/

@[simp] theorem State.setFb_v (g : Framebuffer) : (s.setFb g).v = s.v := rfl
@[simp] theorem State.setFb_i (g : Framebuffer) : (s.setFb g).i = s.i := rfl
@[simp] theorem State.setFb_pc (g : Framebuffer) : (s.setFb g).pc = s.pc := rfl
@[simp] theorem State.setFb_opcode (g : Framebuffer) : (s.setFb g).opcode = s.opcode := rfl
@[simp] theorem State.setFb_stack (g : Framebuffer) : (s.setFb g).stack = s.stack := rfl
@[simp] theorem State.setFb_sp (g : Framebuffer) : (s.setFb g).sp = s.sp := rfl
@[simp] theorem State.setFb_dt (g : Framebuffer) : (s.setFb g).dt = s.dt := rfl
@[simp] theorem State.setFb_st (g : Framebuffer) : (s.setFb g).st = s.st := rfl
@[simp] theorem State.setFb_mem (g : Framebuffer) : (s.setFb g).mem = s.mem := rfl
@[simp] theorem State.setFb_fb (g : Framebuffer) : (s.setFb g).fb = g := rfl
@[simp] theorem State.setFb_key (g : Framebuffer) : (s.setFb g).key = s.key := rfl
@[simp] theorem State.setFb_faultCause (g : Framebuffer) : (s.setFb g).faultCause = s.faultCause := rfl
@[simp] theorem State.setFb_faultPc (g : Framebuffer) : (s.setFb g).faultPc = s.faultPc := rfl
@[simp] theorem State.setFb_faultInfo (g : Framebuffer) : (s.setFb g).faultInfo = s.faultInfo := rfl
@[simp] theorem State.setFb_params (g : Framebuffer) : (s.setFb g).params = s.params := rfl
@[simp] theorem State.setFb_commands (g : Framebuffer) : (s.setFb g).commands = s.commands := rfl
@[simp] theorem State.setFb_rnd (g : Framebuffer) : (s.setFb g).rnd = s.rnd := rfl
@[simp] theorem State.setFb_hostIndex (g : Framebuffer) : (s.setFb g).hostIndex = s.hostIndex := rfl
@[simp] theorem State.setFb_reg (g : Framebuffer) (z : Reg) : (s.setFb g).reg z = s.reg z := rfl
@[simp] theorem State.setFb_readByte (g : Framebuffer) (ad : Nat) : (s.setFb g).readByte ad = s.readByte ad := rfl
@[simp] theorem State.setFb_keyDown (g : Framebuffer) (j : KeyId) : (s.setFb g).keyDown j = s.keyDown j := rfl
@[simp] theorem State.setFb_lowestKey (g : Framebuffer) : (s.setFb g).lowestKey = s.lowestKey := rfl
@[simp] theorem State.setFb_faulted (g : Framebuffer) : (s.setFb g).faulted = s.faulted := rfl
@[simp] theorem State.setFb_wordAt (g : Framebuffer) (ad : Nat) : (s.setFb g).wordAt ad = s.wordAt ad := rfl

/-! `writeBytes` -/

@[simp] theorem State.writeBytes_v (a : Nat) (bs : List Byte) : (s.writeBytes a bs).v = s.v := rfl
@[simp] theorem State.writeBytes_i (a : Nat) (bs : List Byte) : (s.writeBytes a bs).i = s.i := rfl
@[simp] theorem State.writeBytes_pc (a : Nat) (bs : List Byte) : (s.writeBytes a bs).pc = s.pc := rfl
@[simp] theorem State.writeBytes_opcode (a : Nat) (bs : List Byte) : (s.writeBytes a bs).opcode = s.opcode := rfl
@[simp] theorem State.writeBytes_stack (a : Nat) (bs : List Byte) : (s.writeBytes a bs).stack = s.stack := rfl
@[simp] theorem State.writeBytes_sp (a : Nat) (bs : List Byte) : (s.writeBytes a bs).sp = s.sp := rfl
@[simp] theorem State.writeBytes_dt (a : Nat) (bs : List Byte) : (s.writeBytes a bs).dt = s.dt := rfl
@[simp] theorem State.writeBytes_st (a : Nat) (bs : List Byte) : (s.writeBytes a bs).st = s.st := rfl
@[simp] theorem State.writeBytes_mem (a : Nat) (bs : List Byte) : (s.writeBytes a bs).mem = Memory.writeBytes s.params a bs s.mem := rfl
@[simp] theorem State.writeBytes_fb (a : Nat) (bs : List Byte) : (s.writeBytes a bs).fb = s.fb := rfl
@[simp] theorem State.writeBytes_key (a : Nat) (bs : List Byte) : (s.writeBytes a bs).key = s.key := rfl
@[simp] theorem State.writeBytes_faultCause (a : Nat) (bs : List Byte) : (s.writeBytes a bs).faultCause = s.faultCause := rfl
@[simp] theorem State.writeBytes_faultPc (a : Nat) (bs : List Byte) : (s.writeBytes a bs).faultPc = s.faultPc := rfl
@[simp] theorem State.writeBytes_faultInfo (a : Nat) (bs : List Byte) : (s.writeBytes a bs).faultInfo = s.faultInfo := rfl
@[simp] theorem State.writeBytes_params (a : Nat) (bs : List Byte) : (s.writeBytes a bs).params = s.params := rfl
@[simp] theorem State.writeBytes_commands (a : Nat) (bs : List Byte) : (s.writeBytes a bs).commands = s.commands := rfl
@[simp] theorem State.writeBytes_rnd (a : Nat) (bs : List Byte) : (s.writeBytes a bs).rnd = s.rnd := rfl
@[simp] theorem State.writeBytes_hostIndex (a : Nat) (bs : List Byte) : (s.writeBytes a bs).hostIndex = s.hostIndex := rfl
@[simp] theorem State.writeBytes_reg (a : Nat) (bs : List Byte) (z : Reg) : (s.writeBytes a bs).reg z = s.reg z := rfl
@[simp] theorem State.writeBytes_pixel (a : Nat) (bs : List Byte) (y : Fin 32) (w : Fin 64) : (s.writeBytes a bs).pixel y w = s.pixel y w := rfl
@[simp] theorem State.writeBytes_keyDown (a : Nat) (bs : List Byte) (j : KeyId) : (s.writeBytes a bs).keyDown j = s.keyDown j := rfl
@[simp] theorem State.writeBytes_lowestKey (a : Nat) (bs : List Byte) : (s.writeBytes a bs).lowestKey = s.lowestKey := rfl
@[simp] theorem State.writeBytes_faulted (a : Nat) (bs : List Byte) : (s.writeBytes a bs).faulted = s.faulted := rfl

/-! `push` -/

@[simp] theorem State.push_v (a : Word) (h : s.sp.val < 16) : (s.push a h).v = s.v := rfl
@[simp] theorem State.push_i (a : Word) (h : s.sp.val < 16) : (s.push a h).i = s.i := rfl
@[simp] theorem State.push_pc (a : Word) (h : s.sp.val < 16) : (s.push a h).pc = s.pc := rfl
@[simp] theorem State.push_opcode (a : Word) (h : s.sp.val < 16) : (s.push a h).opcode = s.opcode := rfl
@[simp] theorem State.push_stack (a : Word) (h : s.sp.val < 16) : (s.push a h).stack = s.stack.set s.sp.val a h := rfl
@[simp] theorem State.push_sp (a : Word) (h : s.sp.val < 16) : (s.push a h).sp = ⟨s.sp.val + 1, by omega⟩ := rfl
@[simp] theorem State.push_dt (a : Word) (h : s.sp.val < 16) : (s.push a h).dt = s.dt := rfl
@[simp] theorem State.push_st (a : Word) (h : s.sp.val < 16) : (s.push a h).st = s.st := rfl
@[simp] theorem State.push_mem (a : Word) (h : s.sp.val < 16) : (s.push a h).mem = s.mem := rfl
@[simp] theorem State.push_fb (a : Word) (h : s.sp.val < 16) : (s.push a h).fb = s.fb := rfl
@[simp] theorem State.push_key (a : Word) (h : s.sp.val < 16) : (s.push a h).key = s.key := rfl
@[simp] theorem State.push_faultCause (a : Word) (h : s.sp.val < 16) : (s.push a h).faultCause = s.faultCause := rfl
@[simp] theorem State.push_faultPc (a : Word) (h : s.sp.val < 16) : (s.push a h).faultPc = s.faultPc := rfl
@[simp] theorem State.push_faultInfo (a : Word) (h : s.sp.val < 16) : (s.push a h).faultInfo = s.faultInfo := rfl
@[simp] theorem State.push_params (a : Word) (h : s.sp.val < 16) : (s.push a h).params = s.params := rfl
@[simp] theorem State.push_commands (a : Word) (h : s.sp.val < 16) : (s.push a h).commands = s.commands := rfl
@[simp] theorem State.push_rnd (a : Word) (h : s.sp.val < 16) : (s.push a h).rnd = s.rnd := rfl
@[simp] theorem State.push_hostIndex (a : Word) (h : s.sp.val < 16) : (s.push a h).hostIndex = s.hostIndex := rfl
@[simp] theorem State.push_reg (a : Word) (h : s.sp.val < 16) (z : Reg) : (s.push a h).reg z = s.reg z := rfl
@[simp] theorem State.push_readByte (a : Word) (h : s.sp.val < 16) (ad : Nat) : (s.push a h).readByte ad = s.readByte ad := rfl
@[simp] theorem State.push_pixel (a : Word) (h : s.sp.val < 16) (y : Fin 32) (w : Fin 64) : (s.push a h).pixel y w = s.pixel y w := rfl
@[simp] theorem State.push_keyDown (a : Word) (h : s.sp.val < 16) (j : KeyId) : (s.push a h).keyDown j = s.keyDown j := rfl
@[simp] theorem State.push_lowestKey (a : Word) (h : s.sp.val < 16) : (s.push a h).lowestKey = s.lowestKey := rfl
@[simp] theorem State.push_faulted (a : Word) (h : s.sp.val < 16) : (s.push a h).faulted = s.faulted := rfl
@[simp] theorem State.push_wordAt (a : Word) (h : s.sp.val < 16) (ad : Nat) : (s.push a h).wordAt ad = s.wordAt ad := rfl

/-! `pop` -/

@[simp] theorem State.pop_v : (s.pop).v = s.v := rfl
@[simp] theorem State.pop_i : (s.pop).i = s.i := rfl
@[simp] theorem State.pop_pc : (s.pop).pc = s.pc := rfl
@[simp] theorem State.pop_opcode : (s.pop).opcode = s.opcode := rfl
@[simp] theorem State.pop_stack : (s.pop).stack = s.stack := rfl
@[simp] theorem State.pop_sp : (s.pop).sp = ⟨s.sp.val - 1, by omega⟩ := rfl
@[simp] theorem State.pop_dt : (s.pop).dt = s.dt := rfl
@[simp] theorem State.pop_st : (s.pop).st = s.st := rfl
@[simp] theorem State.pop_mem : (s.pop).mem = s.mem := rfl
@[simp] theorem State.pop_fb : (s.pop).fb = s.fb := rfl
@[simp] theorem State.pop_key : (s.pop).key = s.key := rfl
@[simp] theorem State.pop_faultCause : (s.pop).faultCause = s.faultCause := rfl
@[simp] theorem State.pop_faultPc : (s.pop).faultPc = s.faultPc := rfl
@[simp] theorem State.pop_faultInfo : (s.pop).faultInfo = s.faultInfo := rfl
@[simp] theorem State.pop_params : (s.pop).params = s.params := rfl
@[simp] theorem State.pop_commands : (s.pop).commands = s.commands := rfl
@[simp] theorem State.pop_rnd : (s.pop).rnd = s.rnd := rfl
@[simp] theorem State.pop_hostIndex : (s.pop).hostIndex = s.hostIndex := rfl
@[simp] theorem State.pop_reg (z : Reg) : (s.pop).reg z = s.reg z := rfl
@[simp] theorem State.pop_readByte (ad : Nat) : (s.pop).readByte ad = s.readByte ad := rfl
@[simp] theorem State.pop_pixel (y : Fin 32) (w : Fin 64) : (s.pop).pixel y w = s.pixel y w := rfl
@[simp] theorem State.pop_keyDown (j : KeyId) : (s.pop).keyDown j = s.keyDown j := rfl
@[simp] theorem State.pop_lowestKey : (s.pop).lowestKey = s.lowestKey := rfl
@[simp] theorem State.pop_faulted : (s.pop).faulted = s.faulted := rfl
@[simp] theorem State.pop_wordAt (ad : Nat) : (s.pop).wordAt ad = s.wordAt ad := rfl

/-! `raiseAt` -/

@[simp] theorem State.raiseAt_v (a : Word) (c : FaultCause) (n : Word) : (s.raiseAt a c n).v = s.v := rfl
@[simp] theorem State.raiseAt_i (a : Word) (c : FaultCause) (n : Word) : (s.raiseAt a c n).i = s.i := rfl
@[simp] theorem State.raiseAt_pc (a : Word) (c : FaultCause) (n : Word) : (s.raiseAt a c n).pc = a := rfl
@[simp] theorem State.raiseAt_opcode (a : Word) (c : FaultCause) (n : Word) : (s.raiseAt a c n).opcode = s.opcode := rfl
@[simp] theorem State.raiseAt_stack (a : Word) (c : FaultCause) (n : Word) : (s.raiseAt a c n).stack = s.stack := rfl
@[simp] theorem State.raiseAt_sp (a : Word) (c : FaultCause) (n : Word) : (s.raiseAt a c n).sp = s.sp := rfl
@[simp] theorem State.raiseAt_dt (a : Word) (c : FaultCause) (n : Word) : (s.raiseAt a c n).dt = s.dt := rfl
@[simp] theorem State.raiseAt_st (a : Word) (c : FaultCause) (n : Word) : (s.raiseAt a c n).st = s.st := rfl
@[simp] theorem State.raiseAt_mem (a : Word) (c : FaultCause) (n : Word) : (s.raiseAt a c n).mem = s.mem := rfl
@[simp] theorem State.raiseAt_fb (a : Word) (c : FaultCause) (n : Word) : (s.raiseAt a c n).fb = s.fb := rfl
@[simp] theorem State.raiseAt_key (a : Word) (c : FaultCause) (n : Word) : (s.raiseAt a c n).key = s.key := rfl
@[simp] theorem State.raiseAt_faultCause (a : Word) (c : FaultCause) (n : Word) : (s.raiseAt a c n).faultCause = c := rfl
@[simp] theorem State.raiseAt_faultPc (a : Word) (c : FaultCause) (n : Word) : (s.raiseAt a c n).faultPc = a := rfl
@[simp] theorem State.raiseAt_faultInfo (a : Word) (c : FaultCause) (n : Word) : (s.raiseAt a c n).faultInfo = n := rfl
@[simp] theorem State.raiseAt_params (a : Word) (c : FaultCause) (n : Word) : (s.raiseAt a c n).params = s.params := rfl
@[simp] theorem State.raiseAt_commands (a : Word) (c : FaultCause) (n : Word) : (s.raiseAt a c n).commands = s.commands := rfl
@[simp] theorem State.raiseAt_rnd (a : Word) (c : FaultCause) (n : Word) : (s.raiseAt a c n).rnd = s.rnd := rfl
@[simp] theorem State.raiseAt_hostIndex (a : Word) (c : FaultCause) (n : Word) : (s.raiseAt a c n).hostIndex = s.hostIndex := rfl
@[simp] theorem State.raiseAt_reg (a : Word) (c : FaultCause) (n : Word) (z : Reg) : (s.raiseAt a c n).reg z = s.reg z := rfl
@[simp] theorem State.raiseAt_readByte (a : Word) (c : FaultCause) (n : Word) (ad : Nat) : (s.raiseAt a c n).readByte ad = s.readByte ad := rfl
@[simp] theorem State.raiseAt_pixel (a : Word) (c : FaultCause) (n : Word) (y : Fin 32) (w : Fin 64) : (s.raiseAt a c n).pixel y w = s.pixel y w := rfl
@[simp] theorem State.raiseAt_keyDown (a : Word) (c : FaultCause) (n : Word) (j : KeyId) : (s.raiseAt a c n).keyDown j = s.keyDown j := rfl
@[simp] theorem State.raiseAt_lowestKey (a : Word) (c : FaultCause) (n : Word) : (s.raiseAt a c n).lowestKey = s.lowestKey := rfl
@[simp] theorem State.raiseAt_wordAt (a : Word) (c : FaultCause) (n : Word) (ad : Nat) : (s.raiseAt a c n).wordAt ad = s.wordAt ad := rfl

/-! `raiseFault` -/

@[simp] theorem State.raiseFault_v (c : FaultCause) (n : Word) : (s.raiseFault c n).v = s.v := rfl
@[simp] theorem State.raiseFault_i (c : FaultCause) (n : Word) : (s.raiseFault c n).i = s.i := rfl
@[simp] theorem State.raiseFault_pc (c : FaultCause) (n : Word) : (s.raiseFault c n).pc = s.pc - 2 := rfl
@[simp] theorem State.raiseFault_opcode (c : FaultCause) (n : Word) : (s.raiseFault c n).opcode = s.opcode := rfl
@[simp] theorem State.raiseFault_stack (c : FaultCause) (n : Word) : (s.raiseFault c n).stack = s.stack := rfl
@[simp] theorem State.raiseFault_sp (c : FaultCause) (n : Word) : (s.raiseFault c n).sp = s.sp := rfl
@[simp] theorem State.raiseFault_dt (c : FaultCause) (n : Word) : (s.raiseFault c n).dt = s.dt := rfl
@[simp] theorem State.raiseFault_st (c : FaultCause) (n : Word) : (s.raiseFault c n).st = s.st := rfl
@[simp] theorem State.raiseFault_mem (c : FaultCause) (n : Word) : (s.raiseFault c n).mem = s.mem := rfl
@[simp] theorem State.raiseFault_fb (c : FaultCause) (n : Word) : (s.raiseFault c n).fb = s.fb := rfl
@[simp] theorem State.raiseFault_key (c : FaultCause) (n : Word) : (s.raiseFault c n).key = s.key := rfl
@[simp] theorem State.raiseFault_faultCause (c : FaultCause) (n : Word) : (s.raiseFault c n).faultCause = c := rfl
@[simp] theorem State.raiseFault_faultPc (c : FaultCause) (n : Word) : (s.raiseFault c n).faultPc = s.pc - 2 := rfl
@[simp] theorem State.raiseFault_faultInfo (c : FaultCause) (n : Word) : (s.raiseFault c n).faultInfo = n := rfl
@[simp] theorem State.raiseFault_params (c : FaultCause) (n : Word) : (s.raiseFault c n).params = s.params := rfl
@[simp] theorem State.raiseFault_commands (c : FaultCause) (n : Word) : (s.raiseFault c n).commands = s.commands := rfl
@[simp] theorem State.raiseFault_rnd (c : FaultCause) (n : Word) : (s.raiseFault c n).rnd = s.rnd := rfl
@[simp] theorem State.raiseFault_hostIndex (c : FaultCause) (n : Word) : (s.raiseFault c n).hostIndex = s.hostIndex := rfl
@[simp] theorem State.raiseFault_reg (c : FaultCause) (n : Word) (z : Reg) : (s.raiseFault c n).reg z = s.reg z := rfl
@[simp] theorem State.raiseFault_readByte (c : FaultCause) (n : Word) (ad : Nat) : (s.raiseFault c n).readByte ad = s.readByte ad := rfl
@[simp] theorem State.raiseFault_pixel (c : FaultCause) (n : Word) (y : Fin 32) (w : Fin 64) : (s.raiseFault c n).pixel y w = s.pixel y w := rfl
@[simp] theorem State.raiseFault_keyDown (c : FaultCause) (n : Word) (j : KeyId) : (s.raiseFault c n).keyDown j = s.keyDown j := rfl
@[simp] theorem State.raiseFault_lowestKey (c : FaultCause) (n : Word) : (s.raiseFault c n).lowestKey = s.lowestKey := rfl
@[simp] theorem State.raiseFault_wordAt (c : FaultCause) (n : Word) (ad : Nat) : (s.raiseFault c n).wordAt ad = s.wordAt ad := rfl

/-! `afterFetch` -/

@[simp] theorem State.afterFetch_v (r : Byte) : (s.afterFetch r).v = s.v := rfl
@[simp] theorem State.afterFetch_i (r : Byte) : (s.afterFetch r).i = s.i := rfl
@[simp] theorem State.afterFetch_pc (r : Byte) : (s.afterFetch r).pc = s.pc + 2 := rfl
@[simp] theorem State.afterFetch_opcode (r : Byte) : (s.afterFetch r).opcode = s.wordAt s.pc.toNat := rfl
@[simp] theorem State.afterFetch_stack (r : Byte) : (s.afterFetch r).stack = s.stack := rfl
@[simp] theorem State.afterFetch_sp (r : Byte) : (s.afterFetch r).sp = s.sp := rfl
@[simp] theorem State.afterFetch_dt (r : Byte) : (s.afterFetch r).dt = s.dt := rfl
@[simp] theorem State.afterFetch_st (r : Byte) : (s.afterFetch r).st = s.st := rfl
@[simp] theorem State.afterFetch_mem (r : Byte) : (s.afterFetch r).mem = s.mem := rfl
@[simp] theorem State.afterFetch_fb (r : Byte) : (s.afterFetch r).fb = s.fb := rfl
@[simp] theorem State.afterFetch_key (r : Byte) : (s.afterFetch r).key = s.key := rfl
@[simp] theorem State.afterFetch_faultCause (r : Byte) : (s.afterFetch r).faultCause = s.faultCause := rfl
@[simp] theorem State.afterFetch_faultPc (r : Byte) : (s.afterFetch r).faultPc = s.faultPc := rfl
@[simp] theorem State.afterFetch_faultInfo (r : Byte) : (s.afterFetch r).faultInfo = s.faultInfo := rfl
@[simp] theorem State.afterFetch_params (r : Byte) : (s.afterFetch r).params = s.params := rfl
@[simp] theorem State.afterFetch_commands (r : Byte) : (s.afterFetch r).commands = s.commands := rfl
@[simp] theorem State.afterFetch_rnd (r : Byte) : (s.afterFetch r).rnd = r := rfl
@[simp] theorem State.afterFetch_hostIndex (r : Byte) : (s.afterFetch r).hostIndex = s.hostIndex := rfl
@[simp] theorem State.afterFetch_reg (r : Byte) (z : Reg) : (s.afterFetch r).reg z = s.reg z := rfl
@[simp] theorem State.afterFetch_readByte (r : Byte) (ad : Nat) : (s.afterFetch r).readByte ad = s.readByte ad := rfl
@[simp] theorem State.afterFetch_pixel (r : Byte) (y : Fin 32) (w : Fin 64) : (s.afterFetch r).pixel y w = s.pixel y w := rfl
@[simp] theorem State.afterFetch_keyDown (r : Byte) (j : KeyId) : (s.afterFetch r).keyDown j = s.keyDown j := rfl
@[simp] theorem State.afterFetch_lowestKey (r : Byte) : (s.afterFetch r).lowestKey = s.lowestKey := rfl
@[simp] theorem State.afterFetch_faulted (r : Byte) : (s.afterFetch r).faulted = s.faulted := rfl
@[simp] theorem State.afterFetch_wordAt (r : Byte) (ad : Nat) : (s.afterFetch r).wordAt ad = s.wordAt ad := rfl

/-! `tick` -/

@[simp] theorem State.tick_v : (s.tick).v = s.v := rfl
@[simp] theorem State.tick_i : (s.tick).i = s.i := rfl
@[simp] theorem State.tick_pc : (s.tick).pc = s.pc := rfl
@[simp] theorem State.tick_opcode : (s.tick).opcode = s.opcode := rfl
@[simp] theorem State.tick_stack : (s.tick).stack = s.stack := rfl
@[simp] theorem State.tick_sp : (s.tick).sp = s.sp := rfl
@[simp] theorem State.tick_dt : (s.tick).dt = tickTimer s.dt := rfl
@[simp] theorem State.tick_st : (s.tick).st = tickTimer s.st := rfl
@[simp] theorem State.tick_mem : (s.tick).mem = s.mem := rfl
@[simp] theorem State.tick_fb : (s.tick).fb = s.fb := rfl
@[simp] theorem State.tick_key : (s.tick).key = s.key := rfl
@[simp] theorem State.tick_faultCause : (s.tick).faultCause = s.faultCause := rfl
@[simp] theorem State.tick_faultPc : (s.tick).faultPc = s.faultPc := rfl
@[simp] theorem State.tick_faultInfo : (s.tick).faultInfo = s.faultInfo := rfl
@[simp] theorem State.tick_params : (s.tick).params = s.params := rfl
@[simp] theorem State.tick_commands : (s.tick).commands = s.commands := rfl
@[simp] theorem State.tick_rnd : (s.tick).rnd = s.rnd := rfl
@[simp] theorem State.tick_hostIndex : (s.tick).hostIndex = s.hostIndex := rfl
@[simp] theorem State.tick_reg (z : Reg) : (s.tick).reg z = s.reg z := rfl
@[simp] theorem State.tick_readByte (ad : Nat) : (s.tick).readByte ad = s.readByte ad := rfl
@[simp] theorem State.tick_pixel (y : Fin 32) (w : Fin 64) : (s.tick).pixel y w = s.pixel y w := rfl
@[simp] theorem State.tick_keyDown (j : KeyId) : (s.tick).keyDown j = s.keyDown j := rfl
@[simp] theorem State.tick_lowestKey : (s.tick).lowestKey = s.lowestKey := rfl
@[simp] theorem State.tick_faulted : (s.tick).faulted = s.faulted := rfl
@[simp] theorem State.tick_wordAt (ad : Nat) : (s.tick).wordAt ad = s.wordAt ad := rfl

/-! `setKey` -/

@[simp] theorem State.setKey_v (k : KeyId) (p : Bool) : (s.setKey k p).v = s.v := rfl
@[simp] theorem State.setKey_i (k : KeyId) (p : Bool) : (s.setKey k p).i = s.i := rfl
@[simp] theorem State.setKey_pc (k : KeyId) (p : Bool) : (s.setKey k p).pc = s.pc := rfl
@[simp] theorem State.setKey_opcode (k : KeyId) (p : Bool) : (s.setKey k p).opcode = s.opcode := rfl
@[simp] theorem State.setKey_stack (k : KeyId) (p : Bool) : (s.setKey k p).stack = s.stack := rfl
@[simp] theorem State.setKey_sp (k : KeyId) (p : Bool) : (s.setKey k p).sp = s.sp := rfl
@[simp] theorem State.setKey_dt (k : KeyId) (p : Bool) : (s.setKey k p).dt = s.dt := rfl
@[simp] theorem State.setKey_st (k : KeyId) (p : Bool) : (s.setKey k p).st = s.st := rfl
@[simp] theorem State.setKey_mem (k : KeyId) (p : Bool) : (s.setKey k p).mem = s.mem := rfl
@[simp] theorem State.setKey_fb (k : KeyId) (p : Bool) : (s.setKey k p).fb = s.fb := rfl
@[simp] theorem State.setKey_key (k : KeyId) (p : Bool) : (s.setKey k p).key = s.key.set k.val p k.isLt := rfl
@[simp] theorem State.setKey_faultCause (k : KeyId) (p : Bool) : (s.setKey k p).faultCause = s.faultCause := rfl
@[simp] theorem State.setKey_faultPc (k : KeyId) (p : Bool) : (s.setKey k p).faultPc = s.faultPc := rfl
@[simp] theorem State.setKey_faultInfo (k : KeyId) (p : Bool) : (s.setKey k p).faultInfo = s.faultInfo := rfl
@[simp] theorem State.setKey_params (k : KeyId) (p : Bool) : (s.setKey k p).params = s.params := rfl
@[simp] theorem State.setKey_commands (k : KeyId) (p : Bool) : (s.setKey k p).commands = s.commands := rfl
@[simp] theorem State.setKey_rnd (k : KeyId) (p : Bool) : (s.setKey k p).rnd = s.rnd := rfl
@[simp] theorem State.setKey_hostIndex (k : KeyId) (p : Bool) : (s.setKey k p).hostIndex = s.hostIndex := rfl
@[simp] theorem State.setKey_reg (k : KeyId) (p : Bool) (z : Reg) : (s.setKey k p).reg z = s.reg z := rfl
@[simp] theorem State.setKey_readByte (k : KeyId) (p : Bool) (ad : Nat) : (s.setKey k p).readByte ad = s.readByte ad := rfl
@[simp] theorem State.setKey_pixel (k : KeyId) (p : Bool) (y : Fin 32) (w : Fin 64) : (s.setKey k p).pixel y w = s.pixel y w := rfl
@[simp] theorem State.setKey_faulted (k : KeyId) (p : Bool) : (s.setKey k p).faulted = s.faulted := rfl
@[simp] theorem State.setKey_wordAt (k : KeyId) (p : Bool) (ad : Nat) : (s.setKey k p).wordAt ad = s.wordAt ad := rfl

/-! What each update does to the accessor of the store it writes -/

theorem State.reg_setReg (x z : Reg) (b : Byte) : (s.setReg x b).reg z = if z = x then b else s.reg z := by
  simp only [State.reg, State.setReg, Fin.getElem_fin, Vector.getElem_set]
  by_cases h : z = x
  · simp [h]
  · have hv : ¬ x.val = z.val := fun e => h (Fin.ext e.symm)
    simp [h, hv]

@[simp] theorem State.reg_setReg_self (x : Reg) (b : Byte) : (s.setReg x b).reg x = b := by simp [State.reg_setReg]

theorem State.keyDown_setKey (k j : KeyId) (p : Bool) :
    (s.setKey k p).keyDown j = if j = k then p else s.keyDown j := by
  simp only [State.keyDown, State.setKey, Fin.getElem_fin, Vector.getElem_set]
  by_cases h : j = k
  · simp [h]
  · have hv : ¬ k.val = j.val := fun e => h (Fin.ext e.symm)
    simp [h, hv]

@[simp] theorem State.setFb_pixel (g : Framebuffer) (y : Fin 32) (w : Fin 64) : (s.setFb g).pixel y w = g.pixel y w := rfl

@[simp] theorem State.setVF_eq (f : Byte) : s.setVF f = s.setReg regF f := rfl

end

end Sys2Proof.Machine
end

