-- ==== Sys2Proof/Laws/Display.lean ====
section
/-!
SUPPORT. The draw: the pixels and the collision after each operation, up to a whole sprite (41_display.md R101).
-/

namespace Sys2Proof.Machine

theorem Framebuffer.pixel_toggle (fb : Framebuffer) (y y' : Fin 32) (x x' : Fin 64) :
    (fb.toggle y x).pixel y' x' = if y' = y ∧ x' = x then !fb.pixel y x else fb.pixel y' x' := by
  simp only [Framebuffer.pixel, Framebuffer.toggle, Fin.getElem_fin, Vector.getElem_set]
  by_cases hy : y' = y
  · subst hy
    by_cases hx : x' = x
    · simp [hx]
    · have : ¬ x.val = x'.val := fun e => hx (Fin.ext e.symm)
      simp [hx, this]
  · have : ¬ y.val = y'.val := fun e => hy (Fin.ext e.symm)
    simp [hy, this]

@[simp] theorem Framebuffer.pixel_blank (y : Fin 32) (x : Fin 64) : Framebuffer.blank.pixel y x = false := by
  simp [Framebuffer.pixel, Framebuffer.blank]

/-- Two framebuffers with the same pixels are the same. -/
theorem Framebuffer.ext_pixel {f g : Framebuffer} (h : ∀ y x, f.pixel y x = g.pixel y x) : f = g := by
  refine Vector.ext fun i hi => Vector.ext fun j hj => ?_
  simpa [Framebuffer.pixel] using h ⟨i, hi⟩ ⟨j, hj⟩

theorem Framebuffer.pixel_drawPixel (px py : Nat) (d : Framebuffer × Bool) (y : Fin 32) (x : Fin 64) :
    (Framebuffer.drawPixel px py d).1.pixel y x = (d.1.pixel y x ^^ decide (x.val = px ∧ y.val = py)) := by
  rw [Framebuffer.drawPixel]
  split
  · next h =>
    rw [Framebuffer.pixel_toggle]
    by_cases hxy : x.val = px ∧ y.val = py
    · obtain ⟨rfl, rfl⟩ := hxy
      simp
    · have : ¬ (y = ⟨py, h.2⟩ ∧ x = ⟨px, h.1⟩) := fun e => hxy ⟨congrArg Fin.val e.2, congrArg Fin.val e.1⟩
      simp [hxy, this]
  · next h =>
    have : ¬ (x.val = px ∧ y.val = py) := fun e => h ⟨e.1 ▸ x.isLt, e.2 ▸ y.isLt⟩
    simp [this]

theorem Framebuffer.collision_drawPixel (px py : Nat) (d : Framebuffer × Bool) :
    (Framebuffer.drawPixel px py d).2 = true ↔
      d.2 = true ∨ ∃ (y : Fin 32) (x : Fin 64), (x.val = px ∧ y.val = py) ∧ d.1.pixel y x = true := by
  rw [Framebuffer.drawPixel]
  split
  · next h =>
    rw [Bool.or_eq_true]
    constructor
    · rintro (h1 | h1)
      · exact .inl h1
      · exact .inr ⟨⟨py, h.2⟩, ⟨px, h.1⟩, ⟨rfl, rfl⟩, h1⟩
    · rintro (h1 | ⟨y, x, ⟨rfl, rfl⟩, h1⟩)
      · exact .inl h1
      · exact .inr h1
  · next h =>
    constructor
    · exact .inl
    · rintro (h1 | ⟨y, x, ⟨rfl, rfl⟩, h1⟩)
      · exact h1
      · exact absurd ⟨x.isLt, y.isLt⟩ h

/-- The first `k` columns of a sprite row at column `x0`, row `py`, cover pixel (x, y). -/
def rowCovers (x0 py k : Nat) (b : Byte) (y : Fin 32) (x : Fin 64) : Bool :=
  decide (y.val = py ∧ x0 ≤ x.val ∧ x.val < x0 + k) && b.getLsbD (7 - (x.val - x0))

theorem rowCovers_succ (x0 py k : Nat) (b : Byte) (y : Fin 32) (x : Fin 64) :
    rowCovers x0 py (k + 1) b y x = (rowCovers x0 py k b y x || (decide (x.val = x0 + k ∧ y.val = py) && b.getLsbD (7 - k))) := by
  unfold rowCovers
  by_cases hx : x.val = x0 + k
  · by_cases hy : y.val = py <;> simp [hx, hy]
  · by_cases hr : x0 ≤ x.val ∧ x.val < x0 + k
    · by_cases hy : y.val = py <;> simp [hx, hy, hr, show x.val < x0 + (k + 1) by omega]
    · have : ¬ (x0 ≤ x.val ∧ x.val < x0 + (k + 1)) := by omega
      simp [hx, hr, this]

/-- The columns of one row, drawn up to column `k`. -/
def Framebuffer.drawColumns (x0 py k : Nat) (b : Byte) (d : Framebuffer × Bool) : Framebuffer × Bool :=
  (List.range k).foldl (fun d col => if b.getLsbD (7 - col) then Framebuffer.drawPixel (x0 + col) py d else d) d

theorem Framebuffer.drawColumns_succ (x0 py k : Nat) (b : Byte) (d : Framebuffer × Bool) :
    Framebuffer.drawColumns x0 py (k + 1) b d =
      if b.getLsbD (7 - k) then Framebuffer.drawPixel (x0 + k) py (Framebuffer.drawColumns x0 py k b d)
      else Framebuffer.drawColumns x0 py k b d := by
  simp [Framebuffer.drawColumns, List.range_succ]

theorem Framebuffer.pixel_drawColumns (x0 py : Nat) (b : Byte) (d : Framebuffer × Bool) (y : Fin 32) (x : Fin 64) :
    ∀ k, (Framebuffer.drawColumns x0 py k b d).1.pixel y x = (d.1.pixel y x ^^ rowCovers x0 py k b y x)
  | 0 => by simp [Framebuffer.drawColumns, rowCovers, show ¬ (x0 ≤ x.val ∧ x.val < x0) by omega]
  | k + 1 => by
    rw [Framebuffer.drawColumns_succ, rowCovers_succ]
    have ih := Framebuffer.pixel_drawColumns x0 py b d y x k
    split
    · next hb =>
      rw [Framebuffer.pixel_drawPixel, ih, hb]
      by_cases hx : x.val = x0 + k ∧ y.val = py
      · have : rowCovers x0 py k b y x = false := by simp [rowCovers, hx.1]
        simp [hx, this]
      · simp [hx]
    · next hb => simp [ih, hb]

theorem Framebuffer.collision_drawColumns (x0 py : Nat) (b : Byte) (d : Framebuffer × Bool) :
    ∀ k, (Framebuffer.drawColumns x0 py k b d).2 = true ↔
      d.2 = true ∨ ∃ y x, rowCovers x0 py k b y x = true ∧ d.1.pixel y x = true
  | 0 => by simp [Framebuffer.drawColumns, rowCovers, show ∀ x : Nat, ¬ (x0 ≤ x ∧ x < x0) from fun x => by omega]
  | k + 1 => by
    rw [Framebuffer.drawColumns_succ]
    have ih := Framebuffer.collision_drawColumns x0 py b d k
    split
    · next hb =>
      rw [Framebuffer.collision_drawPixel, ih]
      constructor
      · rintro ((h | ⟨y, x, hc, hp⟩) | ⟨y, x, hc, hp⟩)
        · exact .inl h
        · exact .inr ⟨y, x, by simp [rowCovers_succ, hc], hp⟩
        · refine .inr ⟨y, x, by simp [rowCovers_succ, hc, hb], ?_⟩
          rw [Framebuffer.pixel_drawColumns, show rowCovers x0 py k b y x = false by simp [rowCovers, hc.1]] at hp
          simpa using hp
      · rintro (h | ⟨y, x, hc, hp⟩)
        · exact .inl (.inl h)
        · rw [rowCovers_succ, Bool.or_eq_true] at hc
          rcases hc with hc | hc
          · exact .inl (.inr ⟨y, x, hc, hp⟩)
          · have hxy : x.val = x0 + k ∧ y.val = py := by simpa [hb] using hc
            refine .inr ⟨y, x, hxy, ?_⟩
            rw [Framebuffer.pixel_drawColumns, show rowCovers x0 py k b y x = false by simp [rowCovers, hxy.1]]
            simpa using hp
    · next hb =>
      rw [ih]
      simp [rowCovers_succ, hb]

/-- The sprite as one row above the rest. -/
theorem spriteCovers_cons (x0 y0 : Nat) (b : Byte) (bs : List Byte) (y : Fin 32) (x : Fin 64) :
    spriteCovers x0 y0 (b :: bs) y x = (rowCovers x0 y0 8 b y x || spriteCovers x0 (y0 + 1) bs y x) := by
  unfold spriteCovers rowCovers
  by_cases hx : x0 ≤ x.val ∧ x.val < x0 + 8
  · rcases Nat.lt_trichotomy y.val y0 with h | h | h
    · simp [hx, show ¬ y0 ≤ y.val by omega, show ¬ y0 + 1 ≤ y.val by omega, show ¬ y.val = y0 by omega]
    · simp [hx, h]
    · simp [hx, show y0 ≤ y.val by omega, show y0 + 1 ≤ y.val by omega, show ¬ y.val = y0 by omega,
        show y.val - y0 = (y.val - (y0 + 1)) + 1 by omega]
  · have h1 : ¬ (x0 ≤ x.val ∧ x.val < x0 + 8 ∧ y0 ≤ y.val) := fun h => hx ⟨h.1, h.2.1⟩
    have h2 : ¬ (x0 ≤ x.val ∧ x.val < x0 + 8 ∧ y0 + 1 ≤ y.val) := fun h => hx ⟨h.1, h.2.1⟩
    have h3 : ¬ (y.val = y0 ∧ x0 ≤ x.val ∧ x.val < x0 + 8) := fun h => hx h.2
    simp only [h1, h2, h3, decide_false, Bool.false_and, Bool.or_false]

theorem rowCovers_spriteCovers_disjoint (x0 y0 : Nat) (b : Byte) (bs : List Byte) (y : Fin 32) (x : Fin 64)
    (h : rowCovers x0 y0 8 b y x = true) : spriteCovers x0 (y0 + 1) bs y x = false := by
  simp only [rowCovers, Bool.and_eq_true, decide_eq_true_eq] at h
  simp [spriteCovers, show ¬ y0 + 1 ≤ y.val by omega]

theorem Framebuffer.drawRow_eq (x0 py : Nat) (b : Byte) (d : Framebuffer × Bool) :
    Framebuffer.drawRow x0 py b d = Framebuffer.drawColumns x0 py 8 b d := rfl

/-- The pixels after a draw: each is XORed with the sprite bit that falls on it (41_display.md R101). -/
theorem Framebuffer.pixel_drawRows (x0 : Nat) (y : Fin 32) (x : Fin 64) : ∀ (bs : List Byte) (y0 : Nat) (d : Framebuffer × Bool),
    (Framebuffer.drawRows x0 y0 bs d).1.pixel y x = (d.1.pixel y x ^^ spriteCovers x0 y0 bs y x)
  | [], y0, d => by simp [Framebuffer.drawRows, spriteCovers]
  | b :: bs, y0, d => by
    rw [Framebuffer.drawRows, Framebuffer.pixel_drawRows x0 y x bs, Framebuffer.drawRow_eq,
      Framebuffer.pixel_drawColumns, spriteCovers_cons]
    cases hr : rowCovers x0 y0 8 b y x
    · simp
    · simp [rowCovers_spriteCovers_disjoint x0 y0 b bs y x hr]

/-- The collision after a draw: one was noted before, or a set sprite bit falls on a pixel that was on (R101). -/
theorem Framebuffer.collision_drawRows (x0 : Nat) : ∀ (bs : List Byte) (y0 : Nat) (d : Framebuffer × Bool),
    (Framebuffer.drawRows x0 y0 bs d).2 = true ↔
      d.2 = true ∨ ∃ y x, spriteCovers x0 y0 bs y x = true ∧ d.1.pixel y x = true
  | [], y0, d => by simp [Framebuffer.drawRows, spriteCovers]
  | b :: bs, y0, d => by
    rw [Framebuffer.drawRows, Framebuffer.collision_drawRows x0 bs, Framebuffer.drawRow_eq,
      Framebuffer.collision_drawColumns]
    constructor
    · rintro ((h | ⟨y, x, hc, hp⟩) | ⟨y, x, hc, hp⟩)
      · exact .inl h
      · exact .inr ⟨y, x, by simp [spriteCovers_cons, hc], hp⟩
      · refine .inr ⟨y, x, by simp [spriteCovers_cons, hc], ?_⟩
        rw [Framebuffer.pixel_drawColumns] at hp
        cases hr : rowCovers x0 y0 8 b y x
        · simpa [hr] using hp
        · simp [rowCovers_spriteCovers_disjoint x0 y0 b bs y x hr] at hc
    · rintro (h | ⟨y, x, hc, hp⟩)
      · exact .inl (.inl h)
      · rw [spriteCovers_cons, Bool.or_eq_true] at hc
        cases hr : rowCovers x0 y0 8 b y x
        · refine .inr ⟨y, x, by simpa [hr] using hc, ?_⟩
          rw [Framebuffer.pixel_drawColumns, hr]
          simpa using hp
        · exact .inl (.inr ⟨y, x, hr, hp⟩)

end Sys2Proof.Machine
end

