-- ==== Sys2Proof/Laws/Encoding.lean ====
section
/-!
SUPPORT. The fields of a word put together by each format of the encoder (30_encoding.md R71, R72), and words as bytes.
-/

namespace Sys2Proof

section
variable (op : Nat) (x y : Reg) (kk : Byte) (nnn : Addr12)

theorem formatA_toNat (h : op < 16) : (formatA op nnn).toNat = op * 4096 + nnn.toNat := by
  have := nnn.isLt
  simp only [formatA, BitVec.toNat_ofNat]
  omega

theorem formatXK_toNat (h : op < 16) : (formatXK op x kk).toNat = op * 4096 + x.val * 256 + kk.toNat := by
  have := kk.isLt
  have := x.isLt
  simp only [formatXK, BitVec.toNat_ofNat]
  omega

theorem formatXY_toNat (low : Nat) (h : op < 16) (hl : low < 16) :
    (formatXY op x y low).toNat = op * 4096 + x.val * 256 + y.val * 16 + low := by
  have := x.isLt
  have := y.isLt
  simp only [formatXY, BitVec.toNat_ofNat]
  omega

theorem formatX_toNat (sub : Nat) (h : op < 16) (hs : sub < 256) :
    (formatX op x sub).toNat = op * 4096 + x.val * 256 + sub := by
  have := x.isLt
  simp only [formatX, BitVec.toNat_ofNat]
  omega

/-! Each field of a word from the number the word is -/

theorem topNibble_of {w : Word} {r : Nat} (h : w.toNat = op * 4096 + r) (hr : r < 4096) : topNibble w = op := by
  unfold topNibble
  omega

theorem fieldNNN_of {w : Word} (h : w.toNat = op * 4096 + nnn.toNat) : fieldNNN w = nnn := by
  have := nnn.isLt
  refine BitVec.eq_of_toNat_eq ?_
  simp only [fieldNNN, BitVec.toNat_ofNat]
  omega

theorem fieldX_of {w : Word} {r : Nat} (h : w.toNat = op * 4096 + x.val * 256 + r) (hr : r < 256) : fieldX w = x := by
  have := x.isLt
  refine Fin.ext ?_
  simp only [fieldX]
  omega

theorem fieldY_of {w : Word} {q r : Nat} (h : w.toNat = q * 256 + y.val * 16 + r) (hr : r < 16) : fieldY w = y := by
  have := y.isLt
  refine Fin.ext ?_
  simp only [fieldY]
  omega

theorem fieldKK_of {w : Word} {q : Nat} (h : w.toNat = q * 256 + kk.toNat) : fieldKK w = kk := by
  have := kk.isLt
  refine BitVec.eq_of_toNat_eq ?_
  simp only [fieldKK, BitVec.toNat_ofNat]
  omega

/-! All the fields of each format at once -/

theorem formatA_fields (h : op < 16) :
    topNibble (formatA op nnn) = op ∧ fieldNNN (formatA op nnn) = nnn ∧
      (formatA op nnn).toNat % 256 = nnn.toNat % 256 ∧ (formatA op nnn).toNat % 16 = nnn.toNat % 16 := by
  have e := formatA_toNat op nnn h
  refine ⟨topNibble_of op e nnn.isLt, fieldNNN_of op nnn e, ?_, ?_⟩ <;> rw [e] <;> omega

theorem formatXK_fields (h : op < 16) :
    topNibble (formatXK op x kk) = op ∧ fieldX (formatXK op x kk) = x ∧ fieldKK (formatXK op x kk) = kk := by
  have e := formatXK_toNat op x kk h
  have hk := kk.isLt
  have hx := x.isLt
  refine ⟨topNibble_of op (e.trans (Nat.add_assoc _ _ _)) (by omega), fieldX_of op x e hk, fieldKK_of kk (q := op * 16 + x.val) ?_⟩
  rw [e]
  omega

theorem formatXY_fields (low : Nat) (h : op < 16) (hl : low < 16) :
    topNibble (formatXY op x y low) = op ∧ fieldX (formatXY op x y low) = x ∧ fieldY (formatXY op x y low) = y ∧
      (formatXY op x y low).toNat % 16 = low := by
  have e := formatXY_toNat op x y low h hl
  have hx := x.isLt
  have hy := y.isLt
  refine ⟨topNibble_of op (r := x.val * 256 + y.val * 16 + low) ?_ (by omega),
    fieldX_of op x (e.trans (Nat.add_assoc _ _ _)) (by omega), fieldY_of y (q := op * 16 + x.val) ?_ hl, ?_⟩ <;>
    rw [e] <;> omega

theorem formatX_fields (sub : Nat) (h : op < 16) (hs : sub < 256) :
    topNibble (formatX op x sub) = op ∧ fieldX (formatX op x sub) = x ∧ (formatX op x sub).toNat % 256 = sub ∧
      (formatX op x sub).toNat % 16 = sub % 16 := by
  have e := formatX_toNat op x sub h hs
  have hx := x.isLt
  refine ⟨topNibble_of op (e.trans (Nat.add_assoc _ _ _)) (by omega), fieldX_of op x e hs, ?_, ?_⟩ <;> rw [e] <;> omega

end

/-- The two bytes of a word, joined, are the word (20_memory.md R53). -/
@[simp] theorem joinBytes_high_low (w : Word) : joinBytes (highByte w) (lowByte w) = w := by
  have := w.isLt
  refine BitVec.eq_of_toNat_eq ?_
  simp only [joinBytes, highByte, lowByte, BitVec.toNat_ofNat]
  omega

theorem joinBytes_toNat (hi lo : Byte) : (joinBytes hi lo).toNat = hi.toNat * 256 + lo.toNat := by
  have := hi.isLt
  have := lo.isLt
  simp only [joinBytes, BitVec.toNat_ofNat]
  omega

/-- The decoder reads exactly the two bytes of a word. -/
@[simp] theorem decode_wordBytes (sd : SubDecode) (w : Word) (rest : List Byte) :
    decode sd (wordBytes w ++ rest) = .ok (decodeWord sd w, rest) := by
  simp [wordBytes, decode]

end Sys2Proof
end

