-- ==== Sys2Proof/Laws/Memory.lean ====
section
/-!
SUPPORT. Memory: a read after a write, that a write leaves every other address alone, that every operation keeps the
canonical form, and that the form is unique.
-/

namespace Sys2Proof.Machine

section
variable (p : Params)

theorem Memory.wfFrom_cons {lo a : Nat} {b : Byte} {m : Memory} :
    Memory.wfFrom p lo ((a, b) :: m) = true ↔
      lo ≤ a ∧ a < memSize ∧ b ≠ Memory.unlisted p a ∧ Memory.wfFrom p (a + 1) m = true := by
  simp only [Memory.wfFrom, Bool.and_eq_true, decide_eq_true_eq]
  tauto

theorem Memory.wfFrom_mono {lo hi : Nat} (h : lo ≤ hi) : ∀ {m : Memory}, Memory.wfFrom p hi m = true → Memory.wfFrom p lo m = true
  | [], _ => rfl
  | (a, b) :: m, hm => by
    rw [Memory.wfFrom_cons] at hm ⊢
    exact ⟨h.trans hm.1, hm.2⟩

/-- An address below the first listed one reads as its reset contents. -/
theorem Memory.read_below {a lo : Nat} (h : a < lo) : ∀ {m : Memory}, Memory.wfFrom p lo m = true → Memory.read p a m = Memory.unlisted p a
  | [], _ => rfl
  | (c, b) :: m, hm => by
    rw [Memory.wfFrom_cons] at hm
    have hne : a ≠ c := by omega
    rw [Memory.read, if_neg hne]
    exact Memory.read_below (by omega : a < c + 1) hm.2.2.2

theorem Memory.read_insert (a c : Nat) (b : Byte) : ∀ {lo : Nat} {m : Memory}, Memory.wfFrom p lo m = true →
    Memory.read p c (Memory.insert p a b m) = if c = a then b else Memory.read p c m
  | lo, [], _ => by
    by_cases hb : b = Memory.unlisted p a <;> by_cases hc : c = a <;> simp [Memory.insert, Memory.read, hb, hc]
  | lo, (e, d) :: m, hm => by
    rw [Memory.wfFrom_cons] at hm
    obtain ⟨-, -, -, hm⟩ := hm
    rcases Nat.lt_trichotomy a e with hlt | rfl | hgt
    · by_cases hb : b = Memory.unlisted p a <;> by_cases hc : c = a
      · subst hc
        have hne : c ≠ e := by omega
        simp [Memory.insert, Memory.read, hlt, hb, hne, Memory.read_below p (by omega : c < e + 1) hm]
      · simp [Memory.insert, hlt, hb, hc]
      · simp [Memory.insert, Memory.read, hlt, hb, hc]
      · simp [Memory.insert, Memory.read, hlt, hb, hc]
    · by_cases hb : b = Memory.unlisted p a <;> by_cases hc : c = a
      · subst hc
        simp [Memory.insert, hb, Memory.read_below p (Nat.lt_succ_self c) hm]
      · simp [Memory.insert, Memory.read, hb, hc]
      · simp [Memory.insert, Memory.read, hb, hc]
      · simp [Memory.insert, Memory.read, hb, hc]
    · have h1 : ¬ a < e := by omega
      have h2 : a ≠ e := by omega
      simp only [Memory.insert, if_neg h1, if_neg h2, Memory.read, Memory.read_insert a c b hm]
      by_cases hc : c = a
      · subst hc; simp [h2]
      · simp [hc]

theorem Memory.insert_wfFrom (a : Nat) (b : Byte) (ha : a < memSize) : ∀ {lo : Nat} {m : Memory}, lo ≤ a →
    Memory.wfFrom p lo m = true → Memory.wfFrom p lo (Memory.insert p a b m) = true
  | lo, [], hlo, _ => by
    by_cases hb : b = Memory.unlisted p a
    · simp [Memory.insert, hb, Memory.wfFrom]
    · simp [Memory.insert, hb, Memory.wfFrom, hlo, ha]
  | lo, (e, d) :: m, hlo, hm => by
    have hm' := hm
    rw [Memory.wfFrom_cons] at hm
    obtain ⟨h1, h2, h3, h4⟩ := hm
    rcases Nat.lt_trichotomy a e with hlt | rfl | hgt
    · by_cases hb : b = Memory.unlisted p a
      · simpa [Memory.insert, hlt, hb] using hm'
      · simp only [Memory.insert, if_pos hlt, if_neg hb, Memory.wfFrom_cons]
        exact ⟨hlo, ha, hb, hlt, h2, h3, h4⟩
    · by_cases hb : b = Memory.unlisted p a
      · simpa [Memory.insert, hb] using Memory.wfFrom_mono p (by omega) h4
      · simp only [Memory.insert, lt_irrefl, if_false, if_true, if_neg hb, Memory.wfFrom_cons]
        exact ⟨hlo, ha, hb, h4⟩
    · have h5 : ¬ a < e := by omega
      have h6 : a ≠ e := by omega
      simp only [Memory.insert, if_neg h5, if_neg h6, Memory.wfFrom_cons]
      exact ⟨h1, h2, h3, Memory.insert_wfFrom a b ha (by omega) h4⟩

/-- A read after a write: the byte written at its address, the old byte at every other one. -/
theorem Memory.read_write {m : Memory} (hm : Memory.wf p m = true) (a c : Nat) (b : Byte) (ha : a < memSize) :
    Memory.read p c (Memory.write p a b m) = if c = a then b else Memory.read p c m := by
  rw [Memory.write, if_pos ha]
  exact Memory.read_insert p a c b hm

theorem Memory.write_wf {m : Memory} (hm : Memory.wf p m = true) (a : Nat) (b : Byte) :
    Memory.wf p (Memory.write p a b m) = true := by
  rw [Memory.write]
  split
  · next ha => exact Memory.insert_wfFrom p a b ha (Nat.zero_le a) hm
  · exact hm

theorem Memory.writeBytes_wf : ∀ (bs : List Byte) (a : Nat) {m : Memory}, Memory.wf p m = true →
    Memory.wf p (Memory.writeBytes p a bs m) = true
  | [], _, _, hm => hm
  | b :: bs, a, _, hm => Memory.writeBytes_wf bs (a + 1) (Memory.write_wf p hm a b)

/-- What a multi-byte store does: byte `c - a` of it at each address it covers, the old byte elsewhere. -/
theorem Memory.read_writeBytes : ∀ (bs : List Byte) (a c : Nat) {m : Memory}, Memory.wf p m = true →
    a + bs.length ≤ memSize →
    Memory.read p c (Memory.writeBytes p a bs m) =
      if a ≤ c ∧ c < a + bs.length then (bs[c - a]?).getD 0 else Memory.read p c m
  | [], a, c, m, _, _ => by simp [Memory.writeBytes, show ¬ (a ≤ c ∧ c < a) by omega]
  | b :: bs, a, c, m, hm, hl => by
    simp only [List.length_cons] at hl ⊢
    rw [Memory.writeBytes, Memory.read_writeBytes bs (a + 1) c (Memory.write_wf p hm a b) (by omega),
      Memory.read_write p hm a c b (by omega)]
    by_cases h1 : c = a
    · subst h1
      simp
    · by_cases h2 : a ≤ c ∧ c < a + (bs.length + 1)
      · obtain ⟨k, rfl⟩ : ∃ k, c = a + 1 + k := ⟨c - (a + 1), by omega⟩
        rw [if_pos (by omega), if_pos h2, show a + 1 + k - (a + 1) = k by omega, show a + 1 + k - a = k + 1 by omega]
        simp
      · rw [if_neg (by omega), if_neg h1, if_neg h2]

end

/-- The state-level form of `Memory.read_writeBytes`. -/
theorem State.readByte_writeBytes (s : State) (hm : s.MemCanonical) (a c : Nat) (bs : List Byte)
    (h : a + bs.length ≤ 4096) :
    (s.writeBytes a bs).readByte c = if a ≤ c ∧ c < a + bs.length then (bs[c - a]?).getD 0 else s.readByte c :=
  Memory.read_writeBytes s.params bs a c hm h

theorem State.writeBytes_memCanonical (s : State) (hm : s.MemCanonical) (a : Nat) (bs : List Byte) :
    (s.writeBytes a bs).MemCanonical :=
  Memory.writeBytes_wf s.params bs a hm

@[simp] theorem State.readBytes_length (s : State) : ∀ (n a : Nat), (s.readBytes a n).length = n
  | 0, _ => rfl
  | n + 1, a => by simp [State.readBytes, State.readBytes_length s n (a + 1)]

theorem State.readBytes_getElem? (s : State) : ∀ (n a k : Nat), k < n → (s.readBytes a n)[k]? = some (s.readByte (a + k))
  | n + 1, a, 0, _ => rfl
  | n + 1, a, k + 1, h => by
    rw [State.readBytes, List.getElem?_cons_succ, State.readBytes_getElem? s n (a + 1) k (by omega)]
    congr 2
    omega

end Sys2Proof.Machine
end

