-- ==== Sys2Proof/Laws/Ops.lean ====
section
/-!
SUPPORT. One lemma per shared operation that says what it can do: register blocks, the bounds rule, the key operand, the
flag-then-result order, the fetch, the command taken.
-/

namespace Sys2Proof.Machine

section
variable (s : State)

/-- Loading a block of registers changes nothing but V. -/
theorem State.setRegsFrom_frame : ∀ (bs : List Byte) (k : Nat) (s : State),
    State.setRegsFrom k bs s = { s with v := (State.setRegsFrom k bs s).v }
  | [], _, _ => rfl
  | b :: bs, k, s => by
    rw [State.setRegsFrom]
    split
    · rw [State.setRegsFrom_frame bs]; rfl
    · exact State.setRegsFrom_frame bs (k + 1) s

/-- Register z of a loaded block: byte `z - k` of it where it covers z, else the old value. -/
theorem State.reg_setRegsFrom (z : Reg) : ∀ (bs : List Byte) (k : Nat) (s : State),
    (State.setRegsFrom k bs s).reg z = if k ≤ z.val ∧ z.val < k + bs.length then (bs[z.val - k]?).getD 0 else s.reg z
  | [], k, s => by simp [State.setRegsFrom, show ¬ (k ≤ z.val ∧ z.val < k) by omega]
  | b :: bs, k, s => by
    rw [State.setRegsFrom, State.reg_setRegsFrom z bs]
    simp only [List.length_cons]
    by_cases h1 : k + 1 ≤ z.val ∧ z.val < k + 1 + bs.length
    · rw [if_pos h1, if_pos (by omega), show z.val - k = z.val - (k + 1) + 1 by omega]
      simp
    · rw [if_neg h1]
      by_cases h2 : z.val = k
      · subst h2
        simp
      · rw [if_neg (by omega)]
        split
        · next hk => rw [State.reg_setReg, if_neg (fun e => h2 (congrArg Fin.val e))]
        · rfl

/-- V0..Vx has x + 1 bytes. -/
@[simp] theorem State.regsUpTo_length (x : Reg) : (s.regsUpTo x).length = x.val + 1 := by
  simp [State.regsUpTo]

/-- Byte `k` of V0..Vx is V[k]. -/
theorem State.regsUpTo_getElem? (x k : Reg) (h : k ≤ x) : (s.regsUpTo x)[k.val]? = some (s.reg k) := by
  have : k.val < x.val + 1 := Nat.lt_succ_of_le (Fin.le_def.mp h)
  simp [State.regsUpTo, State.reg, this]

/-- The decimal digits are three bytes. -/
@[simp] theorem bcdDigits_length (b : Byte) : (bcdDigits b).length = 3 := rfl

/-- The bounds rule: the fault of the whole access, or the effect with every address in memory (20_memory.md R55). -/
theorem State.withIRange_cases (len : Nat) (c : FaultCause) (go : State → State) :
    (0xFFF < s.i.toNat + len - 1 ∧ 0 < len ∧ s.withIRange len c go = s.raiseFault c s.firstOutOfBounds) ∨
      (s.i.toNat + len ≤ 4096 ∨ len = 0) ∧ s.withIRange len c go = go s := by
  unfold State.withIRange State.iRangeOut
  by_cases h : 0 < len ∧ 0xFFF < s.i.toNat + len - 1
  · exact .inl ⟨h.2, h.1, by simp [h]⟩
  · exact .inr ⟨by omega, by simp [h]⟩

/-- The whole access faults when it reaches above 0xFFF. -/
theorem State.withIRange_out (len : Nat) (c : FaultCause) (go : State → State) (h : 0 < len)
    (h' : 0xFFF < s.i.toNat + len - 1) : s.withIRange len c go = s.raiseFault c s.firstOutOfBounds := by
  rcases s.withIRange_cases len c go with e | e
  · exact e.2.2
  · omega

/-- The effect happens when every address is in memory, or there is none. -/
theorem State.withIRange_in (len : Nat) (c : FaultCause) (go : State → State) (h : s.i.toNat + len ≤ 4096 ∨ len = 0) :
    s.withIRange len c go = go s := by
  rcases s.withIRange_cases len c go with e | e
  · omega
  · exact e.2

/-- The key operand: the fault above 0xF, or the effect on the key V[x] names (45_keypad_timers.md R180). -/
theorem State.withKey_cases (x : Reg) (go : KeyId → State) :
    (0xF < (s.reg x).toNat ∧ s.withKey x go = s.raiseFault .keyIndexOutOfRange (zextByte (s.reg x))) ∨
      ∃ k : KeyId, (s.reg x).toNat = k.val ∧ s.withKey x go = go k := by
  unfold State.withKey
  by_cases h : (s.reg x).toNat < 16
  · exact .inr ⟨⟨_, h⟩, rfl, by simp [h]⟩
  · exact .inl ⟨by omega, by simp [h]⟩

theorem State.withKey_out (x : Reg) (go : KeyId → State) (h : 0xF < (s.reg x).toNat) :
    s.withKey x go = s.raiseFault .keyIndexOutOfRange (zextByte (s.reg x)) := by
  rcases s.withKey_cases x go with e | ⟨k, e, -⟩
  · exact e.2
  · omega

theorem State.withKey_in (x : Reg) (go : KeyId → State) (k : KeyId) (h : (s.reg x).toNat = k.val) :
    s.withKey x go = go k := by
  rcases s.withKey_cases x go with e | ⟨j, e, e'⟩
  · omega
  · rw [e', Fin.ext (h.symm.trans e)]

/-- The flag-then-result order leaves everything but V alone. -/
theorem State.flagThenResult_frame (f : Byte) (x : Reg) (r : State → Byte) :
    s.flagThenResult f x r = { s with v := (s.flagThenResult f x r).v } := rfl

/-- The registers after the two ordered writes (43_alu.md R137). -/
theorem State.reg_flagThenResult (f : Byte) (x z : Reg) (r : State → Byte) :
    (s.flagThenResult f x r).reg z = if z = x then r (s.setReg regF f) else if z = regF then f else s.reg z := by
  simp [State.flagThenResult, State.reg_setReg]

/-- A skip changes nothing but PC. -/
theorem State.skipIf_frame (b : Bool) : s.skipIf b = s.setPc (s.pc + if b then 2 else 0) := by
  cases b
  · simp [State.skipIf, State.setPc]
  · rfl

/-- The lowest pressed key, or none is pressed (45_keypad_timers.md R182). -/
theorem State.lowestKey_cases :
    (s.lowestKey = none ∧ ∀ k, s.keyDown k = false) ∨
      ∃ k, s.lowestKey = some k ∧ s.keyDown k = true ∧ ∀ j, j < k → s.keyDown j = false := by
  rcases h : s.lowestKey with _ | k
  · refine .inl ⟨rfl, fun k => ?_⟩
    have := List.find?_eq_none.mp h k (List.mem_finRange k)
    simpa using this
  · refine .inr ⟨k, rfl, by simpa using List.find?_some h, fun j hj => ?_⟩
    obtain ⟨-, as, bs, hs, hn⟩ := List.find?_eq_some_iff_append.mp h
    have hj' : j ∈ as := by
      have hp : (as ++ k :: bs).Pairwise (· < ·) := hs ▸ List.pairwise_lt_finRange 16
      have hm : j ∈ as ++ k :: bs := hs ▸ List.mem_finRange j
      rw [List.pairwise_append, List.pairwise_cons] at hp
      rw [List.mem_append, List.mem_cons] at hm
      rcases hm with hm | rfl | hm
      · exact hm
      · exact absurd hj (lt_irrefl _)
      · exact absurd hj (hp.2.1.1 j hm).le.not_gt
    simpa using hn j hj'

/-- The first stages of a STEP (30_encoding.md R80): nothing on a faulted core, a fetch fault, or the instruction. -/
theorem State.fetch_cases (r : Byte) :
    (s.faultCause ≠ .none ∧ s.fetch r = .ended s) ∨
    (s.faultCause = .none ∧ 0xFFE < s.pc.toNat ∧ s.fetch r = .ended (s.raiseAt s.pc .fetchOutOfBounds s.pc)) ∨
    (s.faultCause = .none ∧ s.pc.toNat ≤ 0xFFE ∧ s.fetch r = .runs s.currentInstr (s.afterFetch r)) := by
  unfold State.fetch State.faulted
  by_cases h : s.faultCause = .none
  · by_cases h' : 0xFFE < s.pc.toNat
    · exact .inr (.inl ⟨h, h', by simp [h, h']⟩)
    · exact .inr (.inr ⟨h, by omega, by simp [h, h']⟩)
  · exact .inl ⟨h, by simp [h]⟩

/-- PC after the fetch, less 2, is PC before it (so FAULT_PC is the address of the faulting instruction). -/
@[simp] theorem State.afterFetch_pc_sub_two (r : Byte) : (s.afterFetch r).pc - 2 = s.pc := by simp

end

/-- One step, command by command (00_scope.md R6): which command is taken, and what it leads to. -/
theorem step_cases (s : State) :
    (s.commands = [] ∧ step s = runCommand (Config.freeCommand s.hostIndex) { s with hostIndex := s.hostIndex + 1 }) ∨
    ∃ c cs, s.commands = c :: cs ∧ step s = runCommand c { s with commands := cs } := by
  unfold step State.takeCommand
  rcases h : s.commands with _ | ⟨c, cs⟩
  · exact .inl ⟨rfl, rfl⟩
  · exact .inr ⟨c, cs, rfl, rfl⟩

/-- A store of `bs` at `base` reads back as `byteStored` says. -/
theorem State.readByte_writeBytes_byteStored (s : State) (hm : s.MemCanonical) (base a : Nat) (bs : List Byte)
    (h : base + bs.length ≤ 4096) : (s.writeBytes base bs).readByte a = s.byteStored base bs a :=
  s.readByte_writeBytes hm base a bs h

theorem runCommands_cons {c : Command} {cs : List Command} {s t : State} (h : runCommand c s = .next t) :
    runCommands (c :: cs) s = runCommands cs t := by
  rw [runCommands, h]

theorem stepTimes_succ {n : Nat} {s t : State} (h : step s = .next t) : stepTimes (n + 1) s = stepTimes n t := by
  rw [stepTimes, h]

end Sys2Proof.Machine
end

