-- ==== Sys2Proof/Laws/PerInstr.lean ====
section
/-!
SUPPORT. The per-instruction family RowPattern: the encoder's word of every instruction has the match value of its row of
spec/opcode_table.json under the row's mask (30_encoding.md R78). The match and mask values are copied from the table.
-/

namespace Sys2Proof.Laws.RowPattern

theorem and_F000 (w : Word) : w &&& 0xF000#16 = BitVec.ofNat 16 (w.toNat / 4096 * 4096) := by
  have h : w &&& 0xF000#16 = (w >>> 12) <<< 12 := by
    refine BitVec.eq_of_getLsbD_eq fun k hk => ?_
    interval_cases k <;> simp
  rw [h]
  refine BitVec.eq_of_toNat_eq ?_
  simp [Nat.shiftRight_eq_div_pow, Nat.shiftLeft_eq]

theorem and_000F (w : Word) : w &&& 0x000F#16 = BitVec.ofNat 16 (w.toNat % 16) := by
  refine BitVec.eq_of_toNat_eq ?_
  rw [BitVec.toNat_and, show (0x000F#16).toNat = 2 ^ 4 - 1 from rfl, Nat.and_two_pow_sub_one_eq_mod]
  simp only [BitVec.toNat_ofNat]
  omega

theorem and_00FF (w : Word) : w &&& 0x00FF#16 = BitVec.ofNat 16 (w.toNat % 256) := by
  refine BitVec.eq_of_toNat_eq ?_
  rw [BitVec.toNat_and, show (0x00FF#16).toNat = 2 ^ 8 - 1 from rfl, Nat.and_two_pow_sub_one_eq_mod]
  simp only [BitVec.toNat_ofNat]
  omega

/-- The top nibble and a low part of a word, together, as a mask picks them. -/
theorem and_or (w a b : Word) : w &&& (a ||| b) = (w &&& a) ||| (w &&& b) := BitVec.and_or_distrib_left ..

theorem and_F00F (w : Word) : w &&& 0xF00F#16 = BitVec.ofNat 16 (w.toNat / 4096 * 4096) ||| BitVec.ofNat 16 (w.toNat % 16) := by
  rw [← and_F000, ← and_000F, ← and_or]
  rfl

theorem and_F0FF (w : Word) : w &&& 0xF0FF#16 = BitVec.ofNat 16 (w.toNat / 4096 * 4096) ||| BitVec.ofNat 16 (w.toNat % 256) := by
  rw [← and_F000, ← and_00FF, ← and_or]
  rfl

/-- The mask of the instruction's table row. -/
def mask : Instr → Word
  | .cls => 0xF0FF
  | .ret => 0xF0FF
  | .jp _ => 0xF000
  | .call _ => 0xF000
  | .seImm _ _ => 0xF000
  | .sneImm _ _ => 0xF000
  | .seReg _ _ => 0xF000
  | .ldImm _ _ => 0xF000
  | .addImm _ _ => 0xF000
  | .ldReg _ _ => 0xF00F
  | .orReg _ _ => 0xF00F
  | .andReg _ _ => 0xF00F
  | .xorReg _ _ => 0xF00F
  | .addReg _ _ => 0xF00F
  | .subReg _ _ => 0xF00F
  | .shrReg _ _ => 0xF00F
  | .subnReg _ _ => 0xF00F
  | .shlReg _ _ => 0xF00F
  | .sneReg _ _ => 0xF000
  | .ldI _ => 0xF000
  | .jpV0 _ => 0xF000
  | .rnd _ _ => 0xF000
  | .drw _ _ _ => 0xF000
  | .skp _ => 0xF0FF
  | .sknp _ => 0xF0FF
  | .ldVxDT _ => 0xF0FF
  | .ldVxK _ => 0xF0FF
  | .ldDTVx _ => 0xF0FF
  | .ldSTVx _ => 0xF0FF
  | .addI _ => 0xF0FF
  | .ldF _ => 0xF0FF
  | .ldB _ => 0xF0FF
  | .ldMemVx _ => 0xF0FF
  | .ldVxMem _ => 0xF0FF
  | .nop0 _ => 0xF000
  | .nop8 _ => 0xF000
  | .nopE _ => 0xF000
  | .nopF _ => 0xF000

/-- The match value of the instruction's table row. -/
def pattern : Instr → Word
  | .cls => 0x00E0
  | .ret => 0x00EE
  | .jp _ => 0x1000
  | .call _ => 0x2000
  | .seImm _ _ => 0x3000
  | .sneImm _ _ => 0x4000
  | .seReg _ _ => 0x5000
  | .ldImm _ _ => 0x6000
  | .addImm _ _ => 0x7000
  | .ldReg _ _ => 0x8000
  | .orReg _ _ => 0x8001
  | .andReg _ _ => 0x8002
  | .xorReg _ _ => 0x8003
  | .addReg _ _ => 0x8004
  | .subReg _ _ => 0x8005
  | .shrReg _ _ => 0x8006
  | .subnReg _ _ => 0x8007
  | .shlReg _ _ => 0x800E
  | .sneReg _ _ => 0x9000
  | .ldI _ => 0xA000
  | .jpV0 _ => 0xB000
  | .rnd _ _ => 0xC000
  | .drw _ _ _ => 0xD000
  | .skp _ => 0xE09E
  | .sknp _ => 0xE0A1
  | .ldVxDT _ => 0xF007
  | .ldVxK _ => 0xF00A
  | .ldDTVx _ => 0xF015
  | .ldSTVx _ => 0xF018
  | .addI _ => 0xF01E
  | .ldF _ => 0xF029
  | .ldB _ => 0xF033
  | .ldMemVx _ => 0xF055
  | .ldVxMem _ => 0xF065
  | .nop0 _ => 0x0000
  | .nop8 _ => 0x8000
  | .nopE _ => 0xE000
  | .nopF _ => 0xF000

/-- The encoder follows the table. -/
def Statement (i : Instr) : Prop := encode i &&& mask i = pattern i

theorem cls : Statement (.cls) := by
  unfold Statement
  decide

theorem ret : Statement (.ret) := by
  unfold Statement
  decide

theorem jp (nnn : Addr12) : Statement (.jp nnn) := by
  have hnnn := nnn.isLt
  show encode (.jp nnn) &&& 0xF000#16 = _
  rw [and_F000, show (encode (.jp nnn)).toNat / 4096 * 4096 = 0x1000 by
    simp only [encode, formatA, BitVec.toNat_ofNat]; omega]
  rfl

theorem call (nnn : Addr12) : Statement (.call nnn) := by
  have hnnn := nnn.isLt
  show encode (.call nnn) &&& 0xF000#16 = _
  rw [and_F000, show (encode (.call nnn)).toNat / 4096 * 4096 = 0x2000 by
    simp only [encode, formatA, BitVec.toNat_ofNat]; omega]
  rfl

theorem seImm (x : Reg) (kk : Byte) : Statement (.seImm x kk) := by
  have hx := x.isLt
  have hkk := kk.isLt
  show encode (.seImm x kk) &&& 0xF000#16 = _
  rw [and_F000, show (encode (.seImm x kk)).toNat / 4096 * 4096 = 0x3000 by
    simp only [encode, formatXK, BitVec.toNat_ofNat]; omega]
  rfl

theorem sneImm (x : Reg) (kk : Byte) : Statement (.sneImm x kk) := by
  have hx := x.isLt
  have hkk := kk.isLt
  show encode (.sneImm x kk) &&& 0xF000#16 = _
  rw [and_F000, show (encode (.sneImm x kk)).toNat / 4096 * 4096 = 0x4000 by
    simp only [encode, formatXK, BitVec.toNat_ofNat]; omega]
  rfl

theorem seReg (x : Reg) (y : Reg) : Statement (.seReg x y) := by
  have hx := x.isLt
  have hy := y.isLt
  show encode (.seReg x y) &&& 0xF000#16 = _
  rw [and_F000, show (encode (.seReg x y)).toNat / 4096 * 4096 = 0x5000 by
    simp only [encode, formatXY, BitVec.toNat_ofNat]; omega]
  rfl

theorem ldImm (x : Reg) (kk : Byte) : Statement (.ldImm x kk) := by
  have hx := x.isLt
  have hkk := kk.isLt
  show encode (.ldImm x kk) &&& 0xF000#16 = _
  rw [and_F000, show (encode (.ldImm x kk)).toNat / 4096 * 4096 = 0x6000 by
    simp only [encode, formatXK, BitVec.toNat_ofNat]; omega]
  rfl

theorem addImm (x : Reg) (kk : Byte) : Statement (.addImm x kk) := by
  have hx := x.isLt
  have hkk := kk.isLt
  show encode (.addImm x kk) &&& 0xF000#16 = _
  rw [and_F000, show (encode (.addImm x kk)).toNat / 4096 * 4096 = 0x7000 by
    simp only [encode, formatXK, BitVec.toNat_ofNat]; omega]
  rfl

theorem ldReg (x : Reg) (y : Reg) : Statement (.ldReg x y) := by
  have hx := x.isLt
  have hy := y.isLt
  show encode (.ldReg x y) &&& 0xF00F#16 = _
  rw [and_F00F, show (encode (.ldReg x y)).toNat / 4096 * 4096 = 0x8000 by
    simp only [encode, formatXY, BitVec.toNat_ofNat]; omega, show (encode (.ldReg x y)).toNat % 16 = 0x00 by
    simp only [encode, formatXY, BitVec.toNat_ofNat]; omega]
  rfl

theorem orReg (x : Reg) (y : Reg) : Statement (.orReg x y) := by
  have hx := x.isLt
  have hy := y.isLt
  show encode (.orReg x y) &&& 0xF00F#16 = _
  rw [and_F00F, show (encode (.orReg x y)).toNat / 4096 * 4096 = 0x8000 by
    simp only [encode, formatXY, BitVec.toNat_ofNat]; omega, show (encode (.orReg x y)).toNat % 16 = 0x01 by
    simp only [encode, formatXY, BitVec.toNat_ofNat]; omega]
  rfl

theorem andReg (x : Reg) (y : Reg) : Statement (.andReg x y) := by
  have hx := x.isLt
  have hy := y.isLt
  show encode (.andReg x y) &&& 0xF00F#16 = _
  rw [and_F00F, show (encode (.andReg x y)).toNat / 4096 * 4096 = 0x8000 by
    simp only [encode, formatXY, BitVec.toNat_ofNat]; omega, show (encode (.andReg x y)).toNat % 16 = 0x02 by
    simp only [encode, formatXY, BitVec.toNat_ofNat]; omega]
  rfl

theorem xorReg (x : Reg) (y : Reg) : Statement (.xorReg x y) := by
  have hx := x.isLt
  have hy := y.isLt
  show encode (.xorReg x y) &&& 0xF00F#16 = _
  rw [and_F00F, show (encode (.xorReg x y)).toNat / 4096 * 4096 = 0x8000 by
    simp only [encode, formatXY, BitVec.toNat_ofNat]; omega, show (encode (.xorReg x y)).toNat % 16 = 0x03 by
    simp only [encode, formatXY, BitVec.toNat_ofNat]; omega]
  rfl

theorem addReg (x : Reg) (y : Reg) : Statement (.addReg x y) := by
  have hx := x.isLt
  have hy := y.isLt
  show encode (.addReg x y) &&& 0xF00F#16 = _
  rw [and_F00F, show (encode (.addReg x y)).toNat / 4096 * 4096 = 0x8000 by
    simp only [encode, formatXY, BitVec.toNat_ofNat]; omega, show (encode (.addReg x y)).toNat % 16 = 0x04 by
    simp only [encode, formatXY, BitVec.toNat_ofNat]; omega]
  rfl

theorem subReg (x : Reg) (y : Reg) : Statement (.subReg x y) := by
  have hx := x.isLt
  have hy := y.isLt
  show encode (.subReg x y) &&& 0xF00F#16 = _
  rw [and_F00F, show (encode (.subReg x y)).toNat / 4096 * 4096 = 0x8000 by
    simp only [encode, formatXY, BitVec.toNat_ofNat]; omega, show (encode (.subReg x y)).toNat % 16 = 0x05 by
    simp only [encode, formatXY, BitVec.toNat_ofNat]; omega]
  rfl

theorem shrReg (x : Reg) (y : Reg) : Statement (.shrReg x y) := by
  have hx := x.isLt
  have hy := y.isLt
  show encode (.shrReg x y) &&& 0xF00F#16 = _
  rw [and_F00F, show (encode (.shrReg x y)).toNat / 4096 * 4096 = 0x8000 by
    simp only [encode, formatXY, BitVec.toNat_ofNat]; omega, show (encode (.shrReg x y)).toNat % 16 = 0x06 by
    simp only [encode, formatXY, BitVec.toNat_ofNat]; omega]
  rfl

theorem subnReg (x : Reg) (y : Reg) : Statement (.subnReg x y) := by
  have hx := x.isLt
  have hy := y.isLt
  show encode (.subnReg x y) &&& 0xF00F#16 = _
  rw [and_F00F, show (encode (.subnReg x y)).toNat / 4096 * 4096 = 0x8000 by
    simp only [encode, formatXY, BitVec.toNat_ofNat]; omega, show (encode (.subnReg x y)).toNat % 16 = 0x07 by
    simp only [encode, formatXY, BitVec.toNat_ofNat]; omega]
  rfl

theorem shlReg (x : Reg) (y : Reg) : Statement (.shlReg x y) := by
  have hx := x.isLt
  have hy := y.isLt
  show encode (.shlReg x y) &&& 0xF00F#16 = _
  rw [and_F00F, show (encode (.shlReg x y)).toNat / 4096 * 4096 = 0x8000 by
    simp only [encode, formatXY, BitVec.toNat_ofNat]; omega, show (encode (.shlReg x y)).toNat % 16 = 0x0E by
    simp only [encode, formatXY, BitVec.toNat_ofNat]; omega]
  rfl

theorem sneReg (x : Reg) (y : Reg) : Statement (.sneReg x y) := by
  have hx := x.isLt
  have hy := y.isLt
  show encode (.sneReg x y) &&& 0xF000#16 = _
  rw [and_F000, show (encode (.sneReg x y)).toNat / 4096 * 4096 = 0x9000 by
    simp only [encode, formatXY, BitVec.toNat_ofNat]; omega]
  rfl

theorem ldI (nnn : Addr12) : Statement (.ldI nnn) := by
  have hnnn := nnn.isLt
  show encode (.ldI nnn) &&& 0xF000#16 = _
  rw [and_F000, show (encode (.ldI nnn)).toNat / 4096 * 4096 = 0xA000 by
    simp only [encode, formatA, BitVec.toNat_ofNat]; omega]
  rfl

theorem jpV0 (nnn : Addr12) : Statement (.jpV0 nnn) := by
  have hnnn := nnn.isLt
  show encode (.jpV0 nnn) &&& 0xF000#16 = _
  rw [and_F000, show (encode (.jpV0 nnn)).toNat / 4096 * 4096 = 0xB000 by
    simp only [encode, formatA, BitVec.toNat_ofNat]; omega]
  rfl

theorem rnd (x : Reg) (kk : Byte) : Statement (.rnd x kk) := by
  have hx := x.isLt
  have hkk := kk.isLt
  show encode (.rnd x kk) &&& 0xF000#16 = _
  rw [and_F000, show (encode (.rnd x kk)).toNat / 4096 * 4096 = 0xC000 by
    simp only [encode, formatXK, BitVec.toNat_ofNat]; omega]
  rfl

theorem drw (x : Reg) (y : Reg) (n : Fin 16) : Statement (.drw x y n) := by
  have hx := x.isLt
  have hy := y.isLt
  have hn := n.isLt
  show encode (.drw x y n) &&& 0xF000#16 = _
  rw [and_F000, show (encode (.drw x y n)).toNat / 4096 * 4096 = 0xD000 by
    simp only [encode, formatXY, BitVec.toNat_ofNat]; omega]
  rfl

theorem skp (x : Reg) : Statement (.skp x) := by
  have hx := x.isLt
  show encode (.skp x) &&& 0xF0FF#16 = _
  rw [and_F0FF, show (encode (.skp x)).toNat / 4096 * 4096 = 0xE000 by
    simp only [encode, formatX, BitVec.toNat_ofNat]; omega, show (encode (.skp x)).toNat % 256 = 0x9E by
    simp only [encode, formatX, BitVec.toNat_ofNat]; omega]
  rfl

theorem sknp (x : Reg) : Statement (.sknp x) := by
  have hx := x.isLt
  show encode (.sknp x) &&& 0xF0FF#16 = _
  rw [and_F0FF, show (encode (.sknp x)).toNat / 4096 * 4096 = 0xE000 by
    simp only [encode, formatX, BitVec.toNat_ofNat]; omega, show (encode (.sknp x)).toNat % 256 = 0xA1 by
    simp only [encode, formatX, BitVec.toNat_ofNat]; omega]
  rfl

theorem ldVxDT (x : Reg) : Statement (.ldVxDT x) := by
  have hx := x.isLt
  show encode (.ldVxDT x) &&& 0xF0FF#16 = _
  rw [and_F0FF, show (encode (.ldVxDT x)).toNat / 4096 * 4096 = 0xF000 by
    simp only [encode, formatX, BitVec.toNat_ofNat]; omega, show (encode (.ldVxDT x)).toNat % 256 = 0x07 by
    simp only [encode, formatX, BitVec.toNat_ofNat]; omega]
  rfl

theorem ldVxK (x : Reg) : Statement (.ldVxK x) := by
  have hx := x.isLt
  show encode (.ldVxK x) &&& 0xF0FF#16 = _
  rw [and_F0FF, show (encode (.ldVxK x)).toNat / 4096 * 4096 = 0xF000 by
    simp only [encode, formatX, BitVec.toNat_ofNat]; omega, show (encode (.ldVxK x)).toNat % 256 = 0x0A by
    simp only [encode, formatX, BitVec.toNat_ofNat]; omega]
  rfl

theorem ldDTVx (x : Reg) : Statement (.ldDTVx x) := by
  have hx := x.isLt
  show encode (.ldDTVx x) &&& 0xF0FF#16 = _
  rw [and_F0FF, show (encode (.ldDTVx x)).toNat / 4096 * 4096 = 0xF000 by
    simp only [encode, formatX, BitVec.toNat_ofNat]; omega, show (encode (.ldDTVx x)).toNat % 256 = 0x15 by
    simp only [encode, formatX, BitVec.toNat_ofNat]; omega]
  rfl

theorem ldSTVx (x : Reg) : Statement (.ldSTVx x) := by
  have hx := x.isLt
  show encode (.ldSTVx x) &&& 0xF0FF#16 = _
  rw [and_F0FF, show (encode (.ldSTVx x)).toNat / 4096 * 4096 = 0xF000 by
    simp only [encode, formatX, BitVec.toNat_ofNat]; omega, show (encode (.ldSTVx x)).toNat % 256 = 0x18 by
    simp only [encode, formatX, BitVec.toNat_ofNat]; omega]
  rfl

theorem addI (x : Reg) : Statement (.addI x) := by
  have hx := x.isLt
  show encode (.addI x) &&& 0xF0FF#16 = _
  rw [and_F0FF, show (encode (.addI x)).toNat / 4096 * 4096 = 0xF000 by
    simp only [encode, formatX, BitVec.toNat_ofNat]; omega, show (encode (.addI x)).toNat % 256 = 0x1E by
    simp only [encode, formatX, BitVec.toNat_ofNat]; omega]
  rfl

theorem ldF (x : Reg) : Statement (.ldF x) := by
  have hx := x.isLt
  show encode (.ldF x) &&& 0xF0FF#16 = _
  rw [and_F0FF, show (encode (.ldF x)).toNat / 4096 * 4096 = 0xF000 by
    simp only [encode, formatX, BitVec.toNat_ofNat]; omega, show (encode (.ldF x)).toNat % 256 = 0x29 by
    simp only [encode, formatX, BitVec.toNat_ofNat]; omega]
  rfl

theorem ldB (x : Reg) : Statement (.ldB x) := by
  have hx := x.isLt
  show encode (.ldB x) &&& 0xF0FF#16 = _
  rw [and_F0FF, show (encode (.ldB x)).toNat / 4096 * 4096 = 0xF000 by
    simp only [encode, formatX, BitVec.toNat_ofNat]; omega, show (encode (.ldB x)).toNat % 256 = 0x33 by
    simp only [encode, formatX, BitVec.toNat_ofNat]; omega]
  rfl

theorem ldMemVx (x : Reg) : Statement (.ldMemVx x) := by
  have hx := x.isLt
  show encode (.ldMemVx x) &&& 0xF0FF#16 = _
  rw [and_F0FF, show (encode (.ldMemVx x)).toNat / 4096 * 4096 = 0xF000 by
    simp only [encode, formatX, BitVec.toNat_ofNat]; omega, show (encode (.ldMemVx x)).toNat % 256 = 0x55 by
    simp only [encode, formatX, BitVec.toNat_ofNat]; omega]
  rfl

theorem ldVxMem (x : Reg) : Statement (.ldVxMem x) := by
  have hx := x.isLt
  show encode (.ldVxMem x) &&& 0xF0FF#16 = _
  rw [and_F0FF, show (encode (.ldVxMem x)).toNat / 4096 * 4096 = 0xF000 by
    simp only [encode, formatX, BitVec.toNat_ofNat]; omega, show (encode (.ldVxMem x)).toNat % 256 = 0x65 by
    simp only [encode, formatX, BitVec.toNat_ofNat]; omega]
  rfl

theorem nop0 (rest : Addr12) : Statement (.nop0 rest) := by
  have hrest := rest.isLt
  show encode (.nop0 rest) &&& 0xF000#16 = _
  rw [and_F000, show (encode (.nop0 rest)).toNat / 4096 * 4096 = 0x0000 by
    simp only [encode, formatA, BitVec.toNat_ofNat]; omega]
  rfl

theorem nop8 (rest : Addr12) : Statement (.nop8 rest) := by
  have hrest := rest.isLt
  show encode (.nop8 rest) &&& 0xF000#16 = _
  rw [and_F000, show (encode (.nop8 rest)).toNat / 4096 * 4096 = 0x8000 by
    simp only [encode, formatA, BitVec.toNat_ofNat]; omega]
  rfl

theorem nopE (rest : Addr12) : Statement (.nopE rest) := by
  have hrest := rest.isLt
  show encode (.nopE rest) &&& 0xF000#16 = _
  rw [and_F000, show (encode (.nopE rest)).toNat / 4096 * 4096 = 0xE000 by
    simp only [encode, formatA, BitVec.toNat_ofNat]; omega]
  rfl

theorem nopF (rest : Addr12) : Statement (.nopF rest) := by
  have hrest := rest.isLt
  show encode (.nopF rest) &&& 0xF000#16 = _
  rw [and_F000, show (encode (.nopF rest)).toNat / 4096 * 4096 = 0xF000 by
    simp only [encode, formatA, BitVec.toNat_ofNat]; omega]
  rfl

end Sys2Proof.Laws.RowPattern
end

