-- ==== Sys2Proof/Tests/Slice0.lean ====
section
/-!
SUPPORT. The model's own tests. Expected results are taken from spec/95_test_vectors.md (each test names its vector) or
from an instruction's own example in the spec; words are written out from the encodings of 30_encoding.md R78.
-/

namespace Sys2Proof.Tests

open Sys2Proof.Machine

/-- The RESET state with the word `w` at 0x200, where the next STEP fetches it. -/
def withWord (w : Nat) : State := State.reset.withFetchWord 16 w

/-- The state after one step meets `p`. -/
def after (s : State) (p : State → Bool) : Bool :=
  match step s with
  | .next t => p t
  | .fault _ => false
  | .refused _ => false

/-! ### WellFormed: each check refuses an ill-formed term (30_encoding.md R84) -/

theorem test_wf_nop0_is_not_cls : (Instr.nop0 0x0E0).wf .byte = false := by decide
theorem test_wf_nop0_nibble_is_not_ret : (Instr.nop0 0x01E).wf .nibble = false := by decide
theorem test_wf_nop8_is_not_shl : (Instr.nop8 0x12E).wf .byte = false := by decide
theorem test_wf_nopE_is_not_sknp : (Instr.nopE 0x3A1).wf .byte = false := by decide
theorem test_wf_nopE_nibble_is_not_skp : (Instr.nopE 0x30E).wf .nibble = false := by decide
theorem test_wf_nopF_is_not_store : (Instr.nopF 0x255).wf .byte = false := by decide
theorem test_wf_nop0_accepts_sys : (Instr.nop0 0x123).wf .byte = true := by decide

/-! ### Decoding: words written out from the encodings of R78 -/

theorem test_decode_cls : decodeTableWord 16 0b0000000011100000 = some .cls := by decide
theorem test_decode_ret : decodeTableWord 16 0b0000000011101110 = some .ret := by decide
theorem test_decode_jp : decodeTableWord 16 0b0001001000110100 = some (.jp 0x234) := by decide
theorem test_decode_call : decodeTableWord 16 0b0010010000000000 = some (.call 0x400) := by decide
theorem test_decode_seImm : decodeTableWord 16 0b0011001000010000 = some (.seImm 2 0x10) := by decide
theorem test_decode_sneImm : decodeTableWord 16 0b0100001000010000 = some (.sneImm 2 0x10) := by decide
theorem test_decode_seReg_ignores_low : decodeTableWord 16 0b0101000100100001 = some (.seReg 1 2) := by decide
theorem test_decode_ldImm : decodeTableWord 16 0b0110001110101011 = some (.ldImm 3 0xAB) := by decide
theorem test_decode_addImm : decodeTableWord 16 0b0111010000000001 = some (.addImm 4 0x01) := by decide
theorem test_decode_ldReg : decodeTableWord 16 0b1000000100100000 = some (.ldReg 1 2) := by decide
theorem test_decode_orReg : decodeTableWord 16 0b1000000100100001 = some (.orReg 1 2) := by decide
theorem test_decode_andReg : decodeTableWord 16 0b1000000100100010 = some (.andReg 1 2) := by decide
theorem test_decode_xorReg : decodeTableWord 16 0b1000000100100011 = some (.xorReg 1 2) := by decide
theorem test_decode_addReg : decodeTableWord 16 0b1000000000010100 = some (.addReg 0 1) := by decide
theorem test_decode_subReg : decodeTableWord 16 0b1000000000010101 = some (.subReg 0 1) := by decide
theorem test_decode_shrReg : decodeTableWord 16 0b1000000100100110 = some (.shrReg 1 2) := by decide
theorem test_decode_subnReg : decodeTableWord 16 0b1000000100100111 = some (.subnReg 1 2) := by decide
theorem test_decode_shlReg : decodeTableWord 16 0b1000000100101110 = some (.shlReg 1 2) := by decide
theorem test_decode_sneReg : decodeTableWord 16 0b1001000100100000 = some (.sneReg 1 2) := by decide
theorem test_decode_ldI : decodeTableWord 16 0b1010000100100011 = some (.ldI 0x123) := by decide
theorem test_decode_jpV0 : decodeTableWord 16 0b1011001100000000 = some (.jpV0 0x300) := by decide
theorem test_decode_rnd : decodeTableWord 16 0b1100001100001111 = some (.rnd 3 0x0F) := by decide
theorem test_decode_drw : decodeTableWord 16 0b1101001101000101 = some (.drw 3 4 5) := by decide
theorem test_decode_skp : decodeTableWord 16 0b1110000110011110 = some (.skp 1) := by decide
theorem test_decode_sknp : decodeTableWord 16 0b1110000110100001 = some (.sknp 1) := by decide
theorem test_decode_ldVxDT : decodeTableWord 16 0b1111010100000111 = some (.ldVxDT 5) := by decide
theorem test_decode_ldVxK : decodeTableWord 16 0b1111001100001010 = some (.ldVxK 3) := by decide
theorem test_decode_ldDTVx : decodeTableWord 16 0b1111001000010101 = some (.ldDTVx 2) := by decide
theorem test_decode_ldSTVx : decodeTableWord 16 0b1111001000011000 = some (.ldSTVx 2) := by decide
theorem test_decode_addI : decodeTableWord 16 0b1111000100011110 = some (.addI 1) := by decide
theorem test_decode_ldF : decodeTableWord 16 0b1111000100101001 = some (.ldF 1) := by decide
theorem test_decode_ldB : decodeTableWord 16 0b1111000100110011 = some (.ldB 1) := by decide
theorem test_decode_ldMemVx : decodeTableWord 16 0b1111001001010101 = some (.ldMemVx 2) := by decide
theorem test_decode_ldVxMem : decodeTableWord 16 0b1111001001100101 = some (.ldVxMem 2) := by decide
theorem test_decode_nop0 : decodeTableWord 16 0b0000000100100011 = some (.nop0 0x123) := by decide
theorem test_decode_nop8 : decodeTableWord 16 0b1000101010111001 = some (.nop8 0xAB9) := by decide
theorem test_decode_nopE : decodeTableWord 16 0b1110000000000000 = some (.nopE 0x000) := by decide
theorem test_decode_nopF : decodeTableWord 16 0b1111000011111111 = some (.nopF 0x0FF) := by decide

/-- Vectors E1-E6 and K11 under SUBDECODE_0E = nibble (95_test_vectors.md L2.6, L2.5). -/
theorem test_decode_nibble : decodeWord .nibble 0x0123 = .nop0 0x123 ∧ decodeWord .nibble 0x00F0 = .cls ∧
    decodeWord .nibble 0x001E = .ret ∧ decodeWord .nibble 0x0000 = .cls ∧ decodeWord .nibble 0xE1A1 = .sknp 1 ∧
    decodeWord .nibble 0xE10E = .skp 1 ∧ decodeWord .byte 0xE10E = .nopE 0x10E := by decide

theorem test_decode_truncated : decode .byte [0x12] = .error .truncated := by rfl

/-- The assembler forms of program P3 (95_test_vectors.md L3). -/
theorem test_assembler : assembler (.ldImm 2 0x05) = "LD V2, 0x05" ∧ assembler (.ldF 2) = "LD F, V2" ∧
    assembler (.drw 3 4 5) = "DRW V3, V4, 0x5" ∧ assembler (.nop0 0) = "DW 0x0000" := by decide

/-! ### Display (vectors D1-D12) -/

theorem test_cls_D1 : after ((withWord 0x00E0).setFb (Framebuffer.blank.toggle 3 9) |>.setReg 15 0x33)
    (fun t => !t.pixel 3 9 && t.reg 15 == 0x33 && t.pc == 0x202) = true := by decide
theorem test_drw_D2 : after ((withWord 0xD015).setI 0x050)
    (fun t => t.pixel 0 3 && !t.pixel 0 4 && t.pixel 1 0 && !t.pixel 1 1 && t.pixel 3 3 && t.pixel 4 2 &&
      !t.pixel 5 0 && t.reg 15 == 0) = true := by decide
theorem test_drw_clips_D12 : after (((withWord 0xD014).setI 0xFFD).setReg 1 31)
    (fun t => t.faultCause == .memReadOutOfBounds && t.faultPc == 0x200 && t.faultInfo == 0x1000 && t.pc == 0x200) = true := by
  decide
theorem test_drw_D11 : after (((withWord 0xDF11).setI 0x300).setReg 15 5 |>.writeBytes 0x300 [0x80])
    (fun t => t.pixel 0 5 && !t.pixel 0 0 && t.reg 15 == 0) = true := by decide
theorem test_draw_collision_D6 : after (((withWord 0xD011).setI 0x300).setFb (Framebuffer.blank.toggle 0 1) |>.writeBytes 0x300 [0xC0])
    (fun t => t.pixel 0 0 && !t.pixel 0 1 && t.reg 15 == 1) = true := by decide

/-! ### Control transfer (vectors F1-F17) -/

theorem test_ret_F1 : after { withWord 0x00EE with sp := 1, stack := State.reset.stack.set 0 0x202 }
    (fun t => t.sp == 0 && t.pc == 0x202 && t.stack[0] == 0x202) = true := by decide
theorem test_ret_F2 : after (withWord 0x00EE)
    (fun t => t.faultCause.code == 5 && t.faultPc == 0x200 && t.faultInfo == 0 && t.pc == 0x200) = true := by decide
theorem test_jp_F3 : after (withWord 0x1234) (fun t => t.pc == 0x234) = true := by decide
theorem test_call_F5 : after (withWord 0x2400) (fun t => t.pc == 0x400 && t.sp == 1 && t.stack[0] == 0x202) = true := by decide
theorem test_call_F6 : after { withWord 0x2400 with sp := 16 }
    (fun t => t.faultCause.code == 4 && t.faultInfo == 16 && t.sp == 16 && t.pc == 0x200 && t.opcode == 0x2400) = true := by decide
theorem test_seImm_F7 : after ((withWord 0x3210).setReg 2 0x10) (fun t => t.pc == 0x204) = true := by decide
theorem test_sneImm_F9 : after ((withWord 0x4210).setReg 2 0x10) (fun t => t.pc == 0x202) = true := by decide
theorem test_seReg_F11 : after (((withWord 0x5121).setReg 1 3).setReg 2 3) (fun t => t.pc == 0x204) = true := by decide
theorem test_sneReg_F12 : after (((withWord 0x9120).setReg 1 1).setReg 2 2) (fun t => t.pc == 0x204) = true := by decide
theorem test_jpV0_F15 : after ((withWord 0xBFFF).setReg 0 0xFF) (fun t => t.pc == 0x10FE) = true := by decide
theorem test_fetch_fault_F17 : after { State.reset with pc := 0xFFF, opcode := 0x1FFF, commands := [.step 0] }
    (fun t => t.faultCause.code == 1 && t.faultPc == 0xFFF && t.faultInfo == 0xFFF && t.opcode == 0x1FFF) = true := by decide

/-! ### Arithmetic and logic (vectors A1-A24) -/

theorem test_ldImm_A1 : after (withWord 0x6A42) (fun t => t.reg 10 == 0x42) = true := by decide
theorem test_addImm_A2 : after (((withWord 0x7401).setReg 4 0xFF).setReg 15 0x5A)
    (fun t => t.reg 4 == 0 && t.reg 15 == 0x5A) = true := by decide
theorem test_ldReg_A3 : after (((withWord 0x8120).setReg 1 0x0F).setReg 2 0xF0) (fun t => t.reg 1 == 0xF0) = true := by decide
theorem test_orReg_A3 : after (((withWord 0x8121).setReg 1 0x0F).setReg 2 0xF0) (fun t => t.reg 1 == 0xFF) = true := by decide
theorem test_andReg_R135 : after (((withWord 0x8122).setReg 1 0xF0).setReg 2 0x3C) (fun t => t.reg 1 == 0x30) = true := by decide
theorem test_xorReg_R136 : after (((withWord 0x8123).setReg 1 0xF0).setReg 2 0x3C) (fun t => t.reg 1 == 0xCC) = true := by decide
theorem test_addReg_A4 : after (((withWord 0x8014).setReg 0 0xFF).setReg 1 0xFF)
    (fun t => t.reg 0 == 0xFE && t.reg 15 == 1) = true := by decide
theorem test_addReg_A6 : after (((withWord 0x8F14).setReg 15 0x10).setReg 1 0x20) (fun t => t.reg 15 == 0x30) = true := by decide
theorem test_subReg_A9 : after (((withWord 0x8F15).setReg 15 5).setReg 1 3) (fun t => t.reg 15 == 0xFE) = true := by decide
theorem test_subReg_A10 : after (((withWord 0x81F5).setReg 1 5).setReg 15 3)
    (fun t => t.reg 15 == 1 && t.reg 1 == 4) = true := by decide
theorem test_shrReg_A12 : after ((withWord 0x8126).setReg 1 5) (fun t => t.reg 1 == 2 && t.reg 15 == 1) = true := by decide
theorem test_shrReg_A14 : after ((withWord 0x8F06).setReg 15 3) (fun t => t.reg 15 == 0) = true := by decide
theorem test_subnReg_A17 : after (((withWord 0x8F27).setReg 15 1).setReg 2 3) (fun t => t.reg 15 == 2) = true := by decide
theorem test_subnReg_A18 : after (((withWord 0x81F7).setReg 1 1).setReg 15 3)
    (fun t => t.reg 15 == 1 && t.reg 1 == 0) = true := by decide
theorem test_shlReg_A19 : after ((withWord 0x812E).setReg 1 0x81) (fun t => t.reg 1 == 2 && t.reg 15 == 1) = true := by decide
theorem test_shlReg_A20 : after ((withWord 0x8F0E).setReg 15 0x80) (fun t => t.reg 15 == 2) = true := by decide
theorem test_rnd_A22 : after { withWord 0xC30F with commands := [.step 0xA5] } (fun t => t.reg 3 == 0x05) = true := by decide
theorem test_nop8_A24 : after ((withWord 0x8008).setReg 0 1)
    (fun t => t.reg 0 == 1 && t.reg 15 == 0 && t.pc == 0x202 && t.opcode == 0x8008) = true := by decide

/-! ### Index register and memory (vectors M1-M18) -/

theorem test_ldI_M1 : after (withWord 0xA123) (fun t => t.i == 0x123) = true := by decide
theorem test_addI_M3 : after (((withWord 0xF11E).setI 0xFFFF).setReg 1 2) (fun t => t.i == 1 && t.reg 15 == 0) = true := by decide
theorem test_ldF_M6 : after ((withWord 0xF129).setReg 1 0xFF) (fun t => t.i == 0x54B) = true := by decide
theorem test_ldB_M10 : after (((withWord 0xF133).setI 0xFFD).setReg 1 0xC8)
    (fun t => t.readBytes 0xFFD 3 == [2, 0, 0] && t.faultCause == .none) = true := by decide
theorem test_ldB_M11 : after (((withWord 0xF133).setI 0xFFE).setReg 1 7)
    (fun t => t.faultCause.code == 3 && t.faultInfo == 0x1000 && t.readByte 0xFFE == 0) = true := by decide
theorem test_ldMemVx_M12 : after ((((withWord 0xF255).setI 0x300).setReg 0 0x11).setReg 1 0x22 |>.setReg 2 0x33)
    (fun t => t.readBytes 0x300 4 == [0x11, 0x22, 0x33, 0] && t.i == 0x300) = true := by decide
theorem test_ldMemVx_M18 : after ((withWord 0xF055).setI 0x1001)
    (fun t => t.faultCause.code == 3 && t.faultPc == 0x200 && t.faultInfo == 0x1001) = true := by decide
theorem test_ldVxMem_M15 : after (((withWord 0xF265).setI 0x300).writeBytes 0x300 [1, 2, 3, 4])
    (fun t => t.reg 0 == 1 && t.reg 1 == 2 && t.reg 2 == 3 && t.reg 3 == 0 && t.i == 0x300) = true := by decide
theorem test_ldVxMem_M17 : after ((withWord 0xFF65).setI 0xFF1)
    (fun t => t.faultCause.code == 2 && t.faultInfo == 0x1000 && t.reg 0 == 0) = true := by decide

/-! ### Keypad and timers (vectors K1-K10) -/

theorem test_skp_K1 : after (((withWord 0xE19E).setReg 1 5).setKey 5 true) (fun t => t.pc == 0x204) = true := by decide
theorem test_skp_K4 : after ((withWord 0xE19E).setReg 1 0x10)
    (fun t => t.faultCause.code == 6 && t.faultPc == 0x200 && t.faultInfo == 0x10) = true := by decide
theorem test_sknp_K3 : after (((withWord 0xE1A1).setReg 1 5).setKey 5 true) (fun t => t.pc == 0x202) = true := by decide
theorem test_sknp_R181 : after ((withWord 0xE1A1).setReg 1 5) (fun t => t.pc == 0x204) = true := by decide
theorem test_ldVxK_waits_K5 : after (withWord 0xF30A) (fun t => t.pc == 0x200 && t.opcode == 0xF30A) = true := by decide
theorem test_ldVxK_K5 : after (((withWord 0xF30A).setKey 7 true).setKey 3 true)
    (fun t => t.reg 3 == 3 && t.pc == 0x202) = true := by decide
theorem test_ldVxDT_K7 : after ((withWord 0xF507).setDt 0x3C) (fun t => t.reg 5 == 0x3C) = true := by decide
theorem test_ldDTVx_K8 : after ((withWord 0xF215).setReg 2 0x10) (fun t => t.dt == 0x10) = true := by decide
theorem test_ldSTVx_K9 : after ((withWord 0xF218).setReg 2 5) (fun t => t.st == 5 && t.soundOn) = true := by decide
theorem test_nop0_E4 : after (withWord 0x0000) (fun t => t.pc == 0x202 && t.opcode == 0) = true := by decide
theorem test_nopE_E5 : after (withWord 0xE000) (fun t => t.pc == 0x202 && t.faultCause == .none) = true := by decide
theorem test_nopF_E7 : after (withWord 0xF0FF) (fun t => t.pc == 0x202 && t.reg 0 == 0) = true := by decide

/-! ### Commands (vectors S1-S8) -/

theorem test_tick_S1 : after { State.reset with st := 1, commands := [.tick] } (fun t => t.dt == 0 && t.st == 0 && !t.soundOn) = true := by
  decide
theorem test_tick_S3 : after { State.reset with faultCause := .stackUnderflow, dt := 2, commands := [.tick, .step 0] }
    (fun t => t.dt == 1 && t.commands == [.step 0]) = true := by decide
theorem test_faulted_step_S3 : step { State.reset with faultCause := .stackUnderflow, opcode := 7, commands := [.step 0] } =
    .next { State.reset with faultCause := .stackUnderflow, opcode := 7 } := by rfl
theorem test_load_S4 : after { withWord 0x1111 with commands := [.load [0xAB]], dt := 3 }
    (fun t => t.readByte 0x200 == 0xAB && t.readByte 0x201 == 0 && t.dt == 0) = true := by decide
theorem test_reset_S7 : after { State.reset with faultCause := .stackUnderflow, pc := 0, mem := [(0x050, 1)], commands := [.reset] }
    (fun t => t.faultRecord == (0, 0, 0) && t.pc == 0x200 && t.readBytes 0x50 5 == [0xF0, 0x90, 0x90, 0x90, 0xF0]) = true := by
  decide
theorem test_setKey_S8 : after { State.reset with commands := [.setKey 0xC true] }
    (fun t => t.keyDown 0xC && !t.keyDown 0xB) = true := by decide
theorem test_displayGrid_row_major : (State.reset.setFb (Framebuffer.blank.toggle 1 2)).displayGrid[66]? = some true := by decide

/-- The end states (70_reset_and_hazards.md R250). -/
theorem test_runStatus : (withWord 0x1200).runStatus = .selfJump ∧ (withWord 0xF30A).runStatus = .waitingForKey ∧
    (withWord 0x1202).runStatus = .running ∧ { State.reset with faultCause := .stackOverflow }.runStatus = .faulted := by decide

/-! ### Witnesses: for every obligation with hypotheses, states and operands that meet all of them together -/

/-- The RESET state with I set. -/
def withI (a : Word) : State := State.reset.setI a

/-- The RESET state with `w` in the last two bytes of memory and PC there, the highest PC a fetch allows. -/
def atTop (hi lo : Byte) : State := { State.reset.writeBytes 0xFFE [hi, lo] with pc := 0xFFE }

/-- The state is fetchable and the next word decodes to `i`. -/
def ready (s : State) (i : Instr) : Prop := s.faultCause = .none ∧ s.pc.toNat ≤ 0xFFE ∧ s.currentInstr = i

theorem witness_encodeThenDecode : (Instr.jp 0xFFF).wf .byte = true ∧ (Instr.drw 0 15 0).wf .nibble = true ∧
    (Instr.nop8 0xFFF).wf .byte = true ∧ (Instr.nop0 0x0E1).wf .nibble = true := by decide

theorem witness_decodeThenEncode : ∀ w ∈ [(0xDFFF : Word), 0x0000, 0xFFFF], decodeWord .byte w ≠ .cls ∧
    decodeWord .byte w ≠ .ret ∧ (∀ x y, decodeWord .byte w ≠ .seReg x y) ∧ (∀ x y, decodeWord .byte w ≠ .sneReg x y) := by
  have h1 : decodeWord .byte 0xDFFF = .drw 15 15 15 := by decide
  have h2 : decodeWord .byte 0x0000 = .nop0 0x000 := by decide
  have h3 : decodeWord .byte 0xFFFF = .nopF 0xFFF := by decide
  intro w hw
  simp only [List.mem_cons, List.not_mem_nil, or_false] at hw
  rcases hw with rfl | rfl | rfl <;> simp only [h1, h2, h3] <;> simp

theorem witness_opcodeMap_rows : (∃ row ∈ opcodeRows .byte, (0xFF65 : Word) &&& row.mask = row.pattern) ∧
    (∃ row ∈ opcodeRows .nibble, (0x0FF0 : Word) &&& row.mask = row.pattern) := by decide

theorem witness_opcodeMap_nops : (∀ row ∈ opcodeRows .byte, (0x0000 : Word) &&& row.mask ≠ row.pattern) ∧
    (∀ row ∈ opcodeRows .byte, (0x8FFF : Word) &&& row.mask ≠ row.pattern) ∧
    (∀ row ∈ opcodeRows .nibble, (0xE000 : Word) &&& row.mask ≠ row.pattern) ∧
    (∀ row ∈ opcodeRows .nibble, (0xFFFF : Word) &&& row.mask ≠ row.pattern) := by decide

theorem witness_unmappedWords : isNop (.nop0 0) ∧ isNop (.nop8 0xAB9) ∧ isNop (.nopE 0) ∧ isNop (.nopF 0xFFF) ∧
    ready (withWord 0x0000) (.nop0 0) ∧ ready (atTop 0xFF 0xFF) (.nopF 0xFFF) :=
  ⟨⟨_, .inl rfl⟩, ⟨_, .inr (.inl rfl)⟩, ⟨_, .inr (.inr (.inl rfl))⟩, ⟨_, .inr (.inr (.inr rfl))⟩,
    by unfold ready; decide, by unfold ready; decide⟩

theorem witness_ignoredBits_nibble : ((0x0FF0 : Word).toNat / 4096 = 0 ∧ (0x0000 : Word).toNat / 4096 = 0 ∧
      (0x0FF0 : Word).toNat % 16 = (0x0000 : Word).toNat % 16) ∧
    (0xEF0E : Word).toNat / 4096 = 0xE ∧ (0xEFFE : Word).toNat / 4096 = 0xE ∧ sliceX 0xEF0E = sliceX 0xEFFE ∧
    (0xEF0E : Word).toNat % 16 = (0xEFFE : Word).toNat % 16 := by decide

theorem witness_ignoredBits : ((0x0FE0 : Word).toNat / 4096 = 0 ∧ (0x00E0 : Word).toNat / 4096 = 0 ∧
      (0x0FE0 : Word).toNat % 256 = (0x00E0 : Word).toNat % 256) ∧
    (0x5FFF : Word) &&& 0xF000 = 0x5000 ∧ (0x9001 : Word) &&& 0xF000 = 0x9000 := by decide

theorem witness_stepRuns : (atTop 0x6A 0x42).faultCause = .none ∧ (atTop 0x6A 0x42).pc.toNat ≤ 0xFFE ∧
    (atTop 0x6A 0x42).commands = [] ∧ { atTop 0x6A 0x42 with commands := [.step 9, .tick] }.commands = .step 9 :: [.tick] ∧
    decode (atTop 0x6A 0x42).params.subDecode [(atTop 0x6A 0x42).readByte 0xFFE, (atTop 0x6A 0x42).readByte 0xFFF] =
      .ok (.ldImm 10 0x42, []) := ⟨rfl, by decide, rfl, rfl, rfl⟩

theorem witness_withFetchWord : State.reset.MemCanonical ∧ State.reset.pc.toNat ≤ 0xFFE ∧ 0xFFFF < 65536 ∧
    (atTop 1 2).MemCanonical ∧ { State.reset with pc := 0xFFF }.MemCanonical := by decide

/-- One state for each cause, and for each the state at the bound where nothing faults. -/
theorem witness_faults : ∀ rnd : Byte,
    (∃ t, stepWith rnd { State.reset with pc := 0xFFF } = .next t ∧ t.faultCause = .fetchOutOfBounds) ∧
    (∃ t, stepWith rnd ((withWord 0xD012).setI 0xFFF) = .next t ∧ t.faultCause = .memReadOutOfBounds) ∧
    (∃ t, stepWith rnd ((withWord 0xF165).setI 0xFFF) = .next t ∧ t.faultCause = .memReadOutOfBounds) ∧
    (∃ t, stepWith rnd ((withWord 0xF133).setI 0xFFE) = .next t ∧ t.faultCause = .memWriteOutOfBounds) ∧
    (∃ t, stepWith rnd ((withWord 0xF155).setI 0xFFF) = .next t ∧ t.faultCause = .memWriteOutOfBounds) ∧
    (∃ t, stepWith rnd { withWord 0x2400 with sp := 16 } = .next t ∧ t.faultCause = .stackOverflow) ∧
    (∃ t, stepWith rnd (withWord 0x00EE) = .next t ∧ t.faultCause = .stackUnderflow) ∧
    (∃ t, stepWith rnd ((withWord 0xE19E).setReg 1 0x10) = .next t ∧ t.faultCause = .keyIndexOutOfRange) :=
  fun _ => ⟨⟨_, rfl, rfl⟩, ⟨_, rfl, rfl⟩, ⟨_, rfl, rfl⟩, ⟨_, rfl, rfl⟩, ⟨_, rfl, rfl⟩, ⟨_, rfl, rfl⟩, ⟨_, rfl, rfl⟩, ⟨_, rfl, rfl⟩⟩

theorem witness_faults_at_bound : ∀ rnd : Byte,
    (∃ t, stepWith rnd (atTop 0x00 0x00) = .next t ∧ t.faultCause = .none) ∧
    (∃ t, stepWith rnd ((withWord 0xD010).setI 0xFFFF) = .next t ∧ t.faultCause = .none) ∧
    (∃ t, stepWith rnd ((withWord 0xF065).setI 0xFFF) = .next t ∧ t.faultCause = .none) ∧
    (∃ t, stepWith rnd ((withWord 0xF133).setI 0xFFD) = .next t ∧ t.faultCause = .none) ∧
    (∃ t, stepWith rnd ((withWord 0xF055).setI 0xFFF) = .next t ∧ t.faultCause = .none) ∧
    (∃ t, stepWith rnd { withWord 0x2400 with sp := 15 } = .next t ∧ t.faultCause = .none) ∧
    (∃ t, stepWith rnd { withWord 0x00EE with sp := 1 } = .next t ∧ t.faultCause = .none) ∧
    (∃ t, stepWith rnd ((withWord 0xE1A1).setReg 1 0x0F) = .next t ∧ t.faultCause = .none) :=
  fun _ => ⟨⟨_, rfl, rfl⟩, ⟨_, rfl, rfl⟩, ⟨_, rfl, rfl⟩, ⟨_, rfl, rfl⟩, ⟨_, rfl, rfl⟩, ⟨_, rfl, rfl⟩, ⟨_, rfl, rfl⟩, ⟨_, rfl, rfl⟩⟩

theorem witness_faultsArePrecise : (atTop 0x00 0xEE).faultCause = .none ∧ (atTop 0x00 0xEE).pc.toNat ≤ 0xFFE ∧
    (∃ t, stepWith 7 (atTop 0x00 0xEE) = .next t ∧ t.faultCause ≠ .none) ∧
    0xFFE < { State.reset with pc := 0xFFF }.pc.toNat ∧
    (∃ t, stepWith 7 { State.reset with pc := 0xFFF } = .next t ∧ t.faultCause ≠ .none) :=
  ⟨rfl, by decide, ⟨_, rfl, by decide⟩, by decide, ⟨_, rfl, by decide⟩⟩

theorem witness_faultedCore : { State.reset with faultCause := .keyIndexOutOfRange }.faultCause ≠ .none := by decide

theorem witness_outOfBounds : 0 < (2 : Fin 16).val ∧ 0xFFF < (withI 0xFFF).i.toNat + (2 : Fin 16).val - 1 ∧
    0xFFF < (withI 0xFFF).i.toNat + (1 : Reg).val ∧ 0xFFF < (withI 0xFFE).i.toNat + 2 ∧
    0xFFF < (withI 0xFFFF).i.toNat + (0 : Reg).val := by decide

/-- A state that meets all three invariants, has a fault recorded, a byte stored and an address pushed, and steps. -/
theorem witness_invariants :
    let s := { State.reset with mem := [(0x300, 1)], stack := State.reset.stack.set 15 0x1000, pc := 0x10FE, sp := 16, commands := [.step 0] }
    s.MemCanonical ∧ s.PcBounded ∧ s.RecordConsistent ∧ ∃ t, step s = .next t ∧ t.faultCause = .fetchOutOfBounds :=
  ⟨by decide, ⟨by decide, by decide⟩, fun _ => ⟨rfl, rfl⟩, ⟨_, rfl, rfl⟩⟩

theorem witness_invariants_running : (withWord 0xF055).MemCanonical ∧ (withWord 0xF055).PcBounded ∧
    (withWord 0xF055).RecordConsistent ∧ ∃ t, step (withWord 0xF055) = .next t ∧ t.faultCause = .none :=
  ⟨by decide, ⟨by decide, by decide⟩, fun _ => ⟨rfl, rfl⟩, ⟨_, rfl, rfl⟩⟩

theorem witness_canonicalMemory : Memory.wf Config.defaults [(0x050, 1), (0xFFF, 2)] = true ∧
    ∀ a, a < 4096 → Memory.read Config.defaults a [(0x050, 1), (0xFFF, 2)] = Memory.read Config.defaults a [(0x050, 1), (0xFFF, 2)] :=
  ⟨by decide, fun _ _ => rfl⟩

/-- For the statements about every `exec` that answers a next state: one such for a writer of each store and for a fault. -/
theorem witness_writers : (∃ t, exec (.jpV0 0xFFF) State.reset = .next t) ∧ (∃ t, exec .ret State.reset = .next t) ∧
    (∃ t, exec (.ldB 15) State.reset = .next t) ∧ (∃ t, exec (.drw 15 15 15) State.reset = .next t) ∧
    (∃ t, exec (.addReg 15 0) State.reset = .next t) ∧ (∃ t, exec (.ldVxK 15) State.reset = .next t) :=
  ⟨⟨_, rfl⟩, ⟨_, rfl⟩, ⟨_, rfl⟩, ⟨_, rfl⟩, ⟨_, rfl⟩, ⟨_, rfl⟩⟩

theorem witness_randomByteIsReadOnlyByRnd : (∀ x kk, Instr.drw 0 0 1 ≠ .rnd x kk) ∧
    ∃ t, exec (.drw 0 0 1) State.reset = .next t := ⟨fun _ _ h => Instr.noConfusion h, ⟨_, rfl⟩⟩

/-- V[1] = 5 > V[2] = 0: the flag of 8125 is 1, that of 8127 is 0, and so with VF (which is 0) as an operand. -/
theorem witness_subtract : let s := State.reset.setReg 1 5
    1 = (if (s.reg 2).toNat < (s.reg 1).toNat then 1 else 0) ∧ 0 = (if (s.reg 1).toNat < (s.reg 2).toNat then 1 else 0) ∧
    1 = (if (s.reg 15).toNat < (s.reg 1).toNat then 1 else 0) ∧ 0 = (if (s.reg 1).toNat < (s.reg 15).toNat then 1 else 0) ∧
    0 = (if (s.reg 15).toNat < (s.reg 15).toNat then 1 else 0) ∧ (1 : Reg) ≠ 15 ∧ (2 : Reg) ≠ 15 := by decide

theorem witness_randomByteIsMasked : ready (withWord 0xC30F) (.rnd 3 0x0F) ∧ ready (atTop 0xCF 0xFF) (.rnd 15 0xFF) ∧
    ready (withWord 0xC000) (.rnd 0 0x00) := by unfold ready; decide

theorem witness_stores : (withI 0xFFD).MemCanonical ∧ (withI 0xFFD).i.toNat + 2 ≤ 0xFFF ∧
    (withI 0xFFF).i.toNat + (0 : Reg).val ≤ 0xFFF ∧ (withI 0xFF0).i.toNat + (15 : Reg).val ≤ 0xFFF ∧
    (withI 0xFFF).MemCanonical ∧ (withI 0xFF0).MemCanonical := by decide

/-- The two stores, each at the top of memory; the last word fetched has both halves, or one half, stored to. -/
theorem witness_storesAreSeen : (let s := (withI 0xFF0).setPc 0xFFE; let i := Instr.ldMemVx 15; let bs := s.regsUpTo 15;
      s.MemCanonical ∧ ((i = .ldB 15 ∧ bs = bcdDigits (s.reg 15)) ∨ (i = .ldMemVx 15 ∧ bs = s.regsUpTo 15)) ∧
      s.i.toNat + bs.length ≤ 0x1000 ∧ s.faultCause = .none ∧ s.pc.toNat ≤ 0xFFE) ∧
    (let s := (withI 0xFFD).setPc 0xFFC; let i := Instr.ldB 1; let bs := bcdDigits (s.reg 1);
      s.MemCanonical ∧ ((i = .ldB 1 ∧ bs = bcdDigits (s.reg 1)) ∨ (i = .ldMemVx 1 ∧ bs = s.regsUpTo 1)) ∧
      s.i.toNat + bs.length ≤ 0x1000 ∧ s.faultCause = .none ∧ s.pc.toNat ≤ 0xFFE) := by
  decide

theorem witness_call_ret : { State.reset with sp := 15 }.sp.val < 16 ∧ { State.reset with sp := 16 }.sp.val = 16 ∧
    State.reset.sp.val = 0 ∧ { State.reset with sp := 1 }.sp.val = (0 : Fin 16).val + 1 ∧
    { State.reset with sp := 16 }.sp.val = (15 : Fin 16).val + 1 := by decide

theorem witness_retUndoesCall : let s := { State.reset with sp := 15 }
    ∃ t u, s.sp.val = (15 : Fin 16).val ∧ exec (.call 0xFFF) s = .next t ∧ u.sp = t.sp ∧
      u.stack[(15 : Fin 16)] = t.stack[(15 : Fin 16)] ∧ u ≠ t :=
  ⟨_, { State.reset with sp := 16, stack := State.reset.stack.set 15 0x200, dt := 9 }, rfl, rfl, rfl, rfl,
    fun h => absurd (congrArg State.dt h) (by decide)⟩

theorem witness_keySkips : ((State.reset.setReg 1 0x0F).reg 1).toNat = (15 : KeyId).val ∧
    (State.reset.reg 1).toNat = (0 : KeyId).val ∧ 0x0F < ((State.reset.setReg 1 0x10).reg 1).toNat ∧
    0x0F < ((State.reset.setReg 15 0xFF).reg 15).toNat := by decide

theorem witness_waitsForTheLowestKey : (let s := (State.reset.setKey 3 true).setKey 7 true;
      s.keyDown 3 = true ∧ ∀ j, j < (3 : KeyId) → s.keyDown j = false) ∧
    (let s := State.reset.setKey 15 true;
      s.keyDown 15 = true ∧ ∀ j, j < (15 : KeyId) → s.keyDown j = false) ∧
    (∀ k, State.reset.keyDown k = false) := by decide

/-- The bits of a sprite, as the statement about Dxyn describes them, exist for the last sprite memory allows, and for
n = 0 with I beyond memory. -/
theorem witness_drw : ((withI 0xFF1).i.toNat + (15 : Fin 16).val ≤ 0x1000 ∨ (15 : Fin 16).val = 0) ∧
    ((withI 0xFFFF).i.toNat + (0 : Fin 16).val ≤ 0x1000 ∨ (0 : Fin 16).val = 0) ∧
    ∀ (s : State) (vx vy : Reg) (n : Fin 16), ∃ bit : Fin 32 → Fin 64 → Bool, ∀ py px, bit py px =
      (decide ((s.reg vy).toNat % 32 ≤ py.val ∧ py.val < (s.reg vy).toNat % 32 + n.val ∧
        (s.reg vx).toNat % 64 ≤ px.val ∧ px.val < (s.reg vx).toNat % 64 + 8) &&
      (s.readByte (s.i.toNat + (py.val - (s.reg vy).toNat % 32))).getLsbD (7 - (px.val - (s.reg vx).toNat % 64))) :=
  ⟨by decide, by decide, fun _ _ _ _ => ⟨_, fun _ _ => rfl⟩⟩

/-- Two draws of glyph 0 at (0, 0), the second with the coordinates in other registers and VF as the first left it. -/
theorem witness_drawingTwice : let s := withI 0x050
    ∃ t r, s.i.toNat + (5 : Fin 16).val ≤ 0x1000 ∧ exec (.drw 0 1 5) s = .next t ∧ t.fb = t.fb ∧ t.i = s.i ∧
      (∀ k, k < (5 : Fin 16).val → t.readByte (s.i.toNat + k) = s.readByte (s.i.toNat + k)) ∧
      (t.reg 2).toNat % 64 = (s.reg 0).toNat % 64 ∧ (t.reg 3).toNat % 32 = (s.reg 1).toNat % 32 ∧
      exec (.drw 2 3 5) t = .next r :=
  ⟨_, _, by decide, rfl, rfl, rfl, fun _ _ => rfl, rfl, rfl, rfl⟩

/-- Two draws of no rows, with I above memory. -/
theorem witness_drawingTwice_noRows : let s := withI 0xFFFF
    ∃ t r, (s.i.toNat + (0 : Fin 16).val ≤ 0x1000 ∨ (0 : Fin 16).val = 0) ∧ exec (.drw 0 1 0) s = .next t ∧ t.fb = t.fb ∧
      t.i = s.i ∧ (∀ k, k < (0 : Fin 16).val → t.readByte (s.i.toNat + k) = s.readByte (s.i.toNat + k)) ∧
      (t.reg 0).toNat % 64 = (s.reg 0).toNat % 64 ∧ (t.reg 1).toNat % 32 = (s.reg 1).toNat % 32 ∧
      exec (.drw 0 1 0) t = .next r :=
  ⟨_, _, by decide, rfl, rfl, rfl, fun _ _ => rfl, rfl, rfl, rfl⟩

theorem witness_reset_addresses : (0x04F < State.reset.params.fontBase.val ∨ State.reset.params.fontBase.val + 79 < 0x04F) ∧
    (0x0A0 < State.reset.params.fontBase.val ∨ State.reset.params.fontBase.val + 79 < 0x0A0) := by decide

theorem witness_load : (1 < [(0x12 : Byte), 0x00].length ∧ 1 < 3584) ∧ (0x1FF < 0x200 ∨ 0x200 + 2 ≤ 0x1FF ∨ 0x1000 ≤ 0x1FF) ∧
    (0x202 < 0x200 ∨ 0x200 + [(0x12 : Byte), 0x00].length ≤ 0x202 ∨ 0x1000 ≤ 0x202) ∧
    (3583 < (List.replicate 4000 (0 : Byte)).length ∧ 3583 < 3584) ∧
    ∃ t, runCommand (.load [0x12, 0x00]) State.reset = .next t :=
  ⟨by decide, by decide, by decide, by rw [List.length_replicate]; decide, ⟨_, rfl⟩⟩

theorem witness_endsOfARun : (withWord 0x1200).runStatus ≠ .running ∧ (∃ t, stepWith 0 (withWord 0x1200) = .next t) ∧
    (withWord 0xF30A).runStatus ≠ .running ∧ (∃ t, stepWith 0 (withWord 0xF30A) = .next t) ∧
    { State.reset with faultCause := .stackOverflow }.runStatus = .faulted ∧
    (∃ t, stepWith 0 { State.reset with faultCause := .stackOverflow } = .next t) :=
  ⟨by decide, ⟨_, rfl⟩, by decide, ⟨_, rfl⟩, by decide, ⟨_, rfl⟩⟩

theorem witness_anySequenceOfCommands : { State.reset with commands := [.tick, .setKey 3 true] }.commands = .tick :: [.setKey 3 true] ∧
    State.reset.commands = [] := ⟨rfl, rfl⟩

/-- A TICK, a SETKEY and a STEP come in the order the host names them (vectors S1, S8 and E4). -/
theorem test_commands_in_order :
    (match stepTimes 3 { State.reset with dt := 2, commands := [.tick, .setKey 3 true, .step 0] } with
    | .next t => t.dt == 1 && t.keyDown 3 && t.pc == 0x202 && t.commands == []
    | _ => false) = true := by decide

/-- Vector E4 under SUBDECODE_0E = nibble: 0x0000 is CLS (notes/assumptions/15.md). -/
theorem test_zero_word_nibble_E4 : decodeWord .nibble 0x0000 = .cls ∧ decodeWord .byte 0x0000 = .nop0 0x000 := by decide

end Sys2Proof.Tests
end

section
/-!
PROOFS of the encoding family (30_encoding.md). The opcode map and the decoder meet at one predicate, `Unmapped`: no row
matches a word exactly when the word is unmapped, and then the decoder answers its family's NOP.
-/

namespace Sys2Proof.Machine

/-! ### The bit slices of R71 are the decoder's fields -/

@[simp] theorem sliceX_eq_fieldX (w : Word) : sliceX w = fieldX w := by
  refine Fin.ext ?_
  simp [sliceX, fieldX, Nat.shiftRight_eq_div_pow]

@[simp] theorem sliceY_eq_fieldY (w : Word) : sliceY w = fieldY w := by
  refine Fin.ext ?_
  simp [sliceY, fieldY, Nat.shiftRight_eq_div_pow]

theorem ofNat_mod_eq_fieldN (w : Word) : Fin.ofNat 16 (w.toNat % 16) = fieldN w := by
  refine Fin.ext ?_
  simp [fieldN]

@[simp] theorem extractLsb'_eq_fieldKK (w : Word) : w.extractLsb' 0 8 = fieldKK w := by
  refine BitVec.eq_of_toNat_eq ?_
  simp [fieldKK]

@[simp] theorem extractLsb'_eq_fieldNNN (w : Word) : w.extractLsb' 0 12 = fieldNNN w := by
  refine BitVec.eq_of_toNat_eq ?_
  simp [fieldNNN]

/-! ### What each mask of the opcode map keeps of a word, and so what a match says of its nibbles -/

theorem topNibble_lt (w : Word) : topNibble w < 16 := by
  have := w.isLt
  unfold topNibble
  omega

theorem toNat_and_F000 (w : Word) : (w &&& 0xF000#16).toNat = topNibble w * 4096 := by
  have := topNibble_lt w
  rw [Laws.RowPattern.and_F000, BitVec.toNat_ofNat]
  unfold topNibble at *
  omega

/-- Low bits `r` kept beside the top nibble do not overlap it, so the two add up. -/
theorem toNat_and_F000_or {w low : Word} {r : Nat} (hlow : (w &&& low).toNat = r) (hr : r < 4096) :
    (w &&& (0xF000#16 ||| low)).toNat = topNibble w * 4096 + r := by
  rw [Laws.RowPattern.and_or, BitVec.toNat_or, toNat_and_F000, hlow, Nat.mul_comm,
    Nat.two_pow_add_eq_or_of_lt (i := 12) hr]

theorem toNat_and_F00F (w : Word) : (w &&& 0xF00F#16).toNat = topNibble w * 4096 + w.toNat % 16 := by
  refine toNat_and_F000_or (low := 0x000F#16) ?_ (by omega)
  rw [Laws.RowPattern.and_000F, BitVec.toNat_ofNat]
  omega

theorem toNat_and_F0FF (w : Word) : (w &&& 0xF0FF#16).toNat = topNibble w * 4096 + w.toNat % 256 := by
  refine toNat_and_F000_or (low := 0x00FF#16) ?_ (by omega)
  rw [Laws.RowPattern.and_00FF, BitVec.toNat_ofNat]
  omega

theorem and_F000_eq_iff (w p : Word) : w &&& 0xF000#16 = p ↔ topNibble w = p.toNat / 4096 ∧ p.toNat % 4096 = 0 := by
  rw [← BitVec.toNat_inj, toNat_and_F000]
  omega

theorem and_F00F_eq_iff (w p : Word) :
    w &&& 0xF00F#16 = p ↔ topNibble w = p.toNat / 4096 ∧ w.toNat % 16 = p.toNat % 4096 := by
  rw [← BitVec.toNat_inj, toNat_and_F00F]
  omega

theorem and_F0FF_eq_iff (w p : Word) :
    w &&& 0xF0FF#16 = p ↔ topNibble w = p.toNat / 4096 ∧ w.toNat % 256 = p.toNat % 4096 := by
  rw [← BitVec.toNat_inj, toNat_and_F0FF]
  omega

/-! ### A matched word -/

/-- The match fixes the numbers the decoder dispatches on: family 0x0 and 0xE by SUBDECODE_0E, the rest by one mask per
group of rows (R75, R76, R78). -/
theorem decodeWord_of_matches (sd : SubDecode) (w : Word) :
    ∀ row ∈ opcodeRows sd, w &&& row.mask = row.pattern → decodeWord sd w = row.instr w := by
  simp only [opcodeRows, List.forall_mem_append]
  refine ⟨⟨⟨⟨?rows0E, ?rows1to7⟩, ?rows8⟩, ?rows9toD⟩, ?rowsF⟩
  case rows0E =>
    cases sd with
    | byte => simp +contextual [opcodeRows0E, and_F0FF_eq_iff, decodeWord, decodeFamily0, decodeFamilyE]
    | nibble => simp +contextual [opcodeRows0E, and_F00F_eq_iff, decodeWord, decodeFamily0, decodeFamilyE]
  case rows1to7 => simp +contextual [and_F000_eq_iff, decodeWord]
  case rows8 => simp +contextual [and_F00F_eq_iff, decodeWord, decodeFamily8]
  case rows9toD => simp +contextual [and_F000_eq_iff, decodeWord, ofNat_mod_eq_fieldN, -Fin.ofNat_eq_cast]
  case rowsF => simp +contextual [and_F0FF_eq_iff, decodeWord, decodeFamilyF]

theorem not_isNop_instr_of_mem_opcodeRows (sd : SubDecode) (w : Word) :
    ∀ row ∈ opcodeRows sd, ¬ isNop (row.instr w) := by
  cases sd <;> simp [opcodeRows, opcodeRows0E, isNop]

/-! ### An unmapped word -/

/-- The words whose family has unmapped sub-opcodes and whose own is one of them (R84). -/
def Unmapped (sd : SubDecode) (w : Word) : Prop :=
  (topNibble w = 0x0 ∧ sd.key w.toNat ∉ sd.mapped0) ∨ (topNibble w = 0x8 ∧ w.toNat % 16 ∉ mapped8) ∨
  (topNibble w = 0xE ∧ sd.key w.toNat ∉ sd.mappedE) ∨ (topNibble w = 0xF ∧ w.toNat % 256 ∉ mappedF)

theorem no_row0E_matches_iff (sd : SubDecode) (w : Word) :
    (∀ row ∈ opcodeRows0E sd, w &&& row.mask ≠ row.pattern) ↔
      (topNibble w = 0x0 → sd.key w.toNat ∉ sd.mapped0) ∧ (topNibble w = 0xE → sd.key w.toNat ∉ sd.mappedE) := by
  cases sd with
  | byte =>
    simp [opcodeRows0E, and_F0FF_eq_iff, SubDecode.key, SubDecode.mapped0, SubDecode.mappedE, imp_and, and_assoc]
  | nibble =>
    simp [opcodeRows0E, and_F00F_eq_iff, SubDecode.key, SubDecode.mapped0, SubDecode.mappedE, imp_and, and_assoc]

/-- The rows leave out exactly the unmapped words: one case for each value of the top nibble. -/
theorem no_row_matches_iff (sd : SubDecode) (w : Word) :
    (∀ row ∈ opcodeRows sd, w &&& row.mask ≠ row.pattern) ↔ Unmapped sd w := by
  have hlt := topNibble_lt w
  simp only [opcodeRows, List.forall_mem_append, no_row0E_matches_iff, List.forall_mem_cons, ne_eq,
    BitVec.ofNat_eq_ofNat, and_F000_eq_iff, and_F00F_eq_iff, and_F0FF_eq_iff, Unmapped]
  generalize topNibble w = family at *
  interval_cases family <;> simp [mapped8, mappedF]

theorem decodeFamily0_of_unmapped {sd : SubDecode} {w : Word} (h : sd.key w.toNat ∉ sd.mapped0) :
    decodeFamily0 sd w = .nop0 (fieldNNN w) := by
  cases sd <;> simp_all [SubDecode.key, SubDecode.mapped0, decodeFamily0]

theorem decodeFamily8_of_unmapped {w : Word} (h : w.toNat % 16 ∉ mapped8) :
    decodeFamily8 w = .nop8 (fieldNNN w) := by
  unfold decodeFamily8
  split <;> simp_all [mapped8]

theorem decodeFamilyE_of_unmapped {sd : SubDecode} {w : Word} (h : sd.key w.toNat ∉ sd.mappedE) :
    decodeFamilyE sd w = .nopE (fieldNNN w) := by
  cases sd <;> simp_all [SubDecode.key, SubDecode.mappedE, decodeFamilyE]

theorem decodeFamilyF_of_unmapped {w : Word} (h : w.toNat % 256 ∉ mappedF) :
    decodeFamilyF w = .nopF (fieldNNN w) := by
  unfold decodeFamilyF
  split <;> simp_all [mappedF]

theorem decodeWord_of_unmapped {sd : SubDecode} {w : Word} (h : Unmapped sd w) :
    (topNibble w = 0x0 ∧ decodeWord sd w = .nop0 (fieldNNN w)) ∨
    (topNibble w = 0x8 ∧ decodeWord sd w = .nop8 (fieldNNN w)) ∨
    (topNibble w = 0xE ∧ decodeWord sd w = .nopE (fieldNNN w)) ∨
    (topNibble w = 0xF ∧ decodeWord sd w = .nopF (fieldNNN w)) := by
  obtain ⟨hw, hu⟩ | ⟨hw, hu⟩ | ⟨hw, hu⟩ | ⟨hw, hu⟩ := h
  · simp [decodeWord, hw, decodeFamily0_of_unmapped hu]
  · simp [decodeWord, hw, decodeFamily8_of_unmapped hu]
  · simp [decodeWord, hw, decodeFamilyE_of_unmapped hu]
  · simp [decodeWord, hw, decodeFamilyF_of_unmapped hu]

theorem isNop_decodeWord_iff (sd : SubDecode) (w : Word) : isNop (decodeWord sd w) ↔ Unmapped sd w := by
  constructor
  · intro hnop
    refine (no_row_matches_iff sd w).mp fun row hrow hmatch => not_isNop_instr_of_mem_opcodeRows sd w row hrow ?_
    rwa [← decodeWord_of_matches sd w row hrow hmatch]
  · intro hu
    obtain ⟨-, h⟩ | ⟨-, h⟩ | ⟨-, h⟩ | ⟨-, h⟩ := decodeWord_of_unmapped hu <;> simp [isNop, h]

/-! ### Running a NOP (R80, R84) -/

theorem exec_of_isNop {i : Instr} (s : State) (h : isNop i) : exec i s = .next s := by
  obtain ⟨r, rfl | rfl | rfl | rfl⟩ := h <;> rfl

theorem stepWith_of_fetchable (rnd : Byte) {s : State} (hcause : s.faultCause = .none) (hpc : s.pc.toNat ≤ 0xFFE) :
    stepWith rnd s = exec s.currentInstr (s.afterFetch rnd) := by
  obtain ⟨h, -⟩ | ⟨-, h, -⟩ | ⟨-, -, hfetch⟩ := s.fetch_cases rnd
  · exact absurd hcause h
  · omega
  · rw [stepWith, hfetch]

/-- R84 lists family 0x8's NOP nibbles where the decoder lists its mapped ones. -/
theorem not_mem_mapped8_iff {n : Nat} (hn : n < 16) :
    n ∉ mapped8 ↔ n ∈ [0x8, 0x9, 0xA, 0xB, 0xC, 0xD, 0xF] := by
  revert n
  decide

/-! ### The obligations -/

/-- Settles O3: a matched word by the group of its row, an unmatched one as an unmapped word. -/
theorem decoderFollowsTheOpcodeMap : Obligations.DecoderFollowsTheOpcodeMap := by
  intro sd w
  refine ⟨decodeWord_of_matches sd w, fun hno => ?_⟩
  simpa [and_F000_eq_iff] using decodeWord_of_unmapped ((no_row_matches_iff sd w).mp hno)

/-- Settles O5: the NOP words are the unmapped ones, and a STEP of a NOP ends in the state after the fetch. -/
theorem unmappedWordsAreNops : Obligations.UnmappedWordsAreNops := by
  refine ⟨fun w => ?listed, fun i s hi => exec_of_isNop s hi, fun rnd s hcause hpc hnop => ?step⟩
  case listed =>
    rw [isNop_decodeWord_iff, Unmapped, not_mem_mapped8_iff (Nat.mod_lt _ (by decide))]
    rfl
  case step =>
    have hstep : stepWith rnd s = .next (s.afterFetch rnd) :=
      (stepWith_of_fetchable rnd hcause hpc).trans (exec_of_isNop _ hnop)
    exact ⟨s.afterFetch rnd, hstep, rfl, rfl, fun _ => rfl, fun _ => rfl, rfl⟩

end Sys2Proof.Machine
end

section
/-!
PROOFS of the display family (41_display.md).
-/

namespace Sys2Proof.Machine

/-- CLS writes the framebuffer and nothing else (R100). -/
theorem exec_cls (s : State) : exec .cls s = .next (s.setFb Framebuffer.blank) := rfl

/-- Settles O46: the next state is `s` with a blank framebuffer, whose pixels are off, and the other accessors do not
read the framebuffer. -/
theorem clsClearsEveryPixel : Obligations.ClsClearsEveryPixel := by
  intro s
  refine ⟨s.setFb Framebuffer.blank, exec_cls s, fun y x => ?pixels, s.setFb_reg Framebuffer.blank,
    s.setFb_readByte Framebuffer.blank, ?frame⟩
  case pixels => rw [State.setFb_pixel, Framebuffer.pixel_blank]
  case frame => rw [State.setFb_fb, State.setFb]

end Sys2Proof.Machine
end

section
/-!
PROOFS of the control transfer family (42_flow.md). Every next state here is `s.setPc a` or `s.skipIf b`, so one frame
lemma serves all six instructions.
-/

namespace Sys2Proof.Machine

/-! ### The two operations on PC -/

theorem State.framePc_setPc (s : State) (a : Word) : FramePc s (s.setPc a) :=
  ⟨s.setPc_reg a, s.setPc_readByte a, by rw [State.setPc_pc, State.setPc]⟩

theorem State.framePc_skipIf (s : State) (b : Bool) : FramePc s (s.skipIf b) := by
  rw [State.skipIf_frame]
  exact s.framePc_setPc _

@[simp] theorem State.skipIf_pc (s : State) (b : Bool) : (s.skipIf b).pc = if b then s.pc + 2 else s.pc := by
  cases b with
  | false => rfl
  | true => rfl

@[simp] theorem toNat_zextAddr (nnn : Addr12) : (zextAddr nnn).toNat = nnn.toNat :=
  BitVec.toNat_setWidth_of_le (by decide)

@[simp] theorem toNat_zextByte (b : Byte) : (zextByte b).toNat = b.toNat :=
  BitVec.toNat_setWidth_of_le (by decide)

/-- The sum of R119 is at most 0x10FE, so 16 bits hold it. -/
theorem toNat_zextByte_add_zextAddr (b : Byte) (nnn : Addr12) :
    (zextByte b + zextAddr nnn).toNat = b.toNat + nnn.toNat := by
  have hb := b.isLt
  have hnnn := nnn.isLt
  rw [BitVec.toNat_add, toNat_zextByte, toNat_zextAddr]
  exact Nat.mod_eq_of_lt (by omega)

/-! ### What each instruction answers -/

section
variable (s : State) (x y : Reg) (kk : Byte) (nnn : Addr12)

theorem exec_jp : exec (.jp nnn) s = .next (s.setPc (zextAddr nnn)) := rfl

theorem exec_jpV0 : exec (.jpV0 nnn) s = .next (s.setPc (zextByte (s.reg 0) + zextAddr nnn)) := rfl

theorem exec_seImm : exec (.seImm x kk) s = .next (s.skipIf (s.reg x == kk)) := rfl

theorem exec_sneImm : exec (.sneImm x kk) s = .next (s.skipIf (s.reg x != kk)) := rfl

theorem exec_seReg : exec (.seReg x y) s = .next (s.skipIf (s.reg x == s.reg y)) := rfl

theorem exec_sneReg : exec (.sneReg x y) s = .next (s.skipIf (s.reg x != s.reg y)) := rfl

end

/-! ### PC after a skip on equality, and after its complement -/

theorem State.skipIf_beq_pc (s : State) (a b : Byte) :
    (s.skipIf (a == b)).pc = if a = b then s.pc + 2 else s.pc := by
  simp only [State.skipIf_pc, beq_iff_eq]

theorem State.skipIf_bne_pc (s : State) (a b : Byte) :
    (s.skipIf (a != b)).pc = if a = b then s.pc else s.pc + 2 := by
  simp only [State.skipIf_pc, bne_iff_ne, ne_eq, ite_not]

/-! ### The obligations -/

/-- Settles O38: both jumps are one write of PC, and neither target wraps. -/
theorem jumpsSetPc : Obligations.JumpsSetPc := by
  intro s nnn
  refine ⟨⟨_, exec_jp s nnn, ?jp, s.framePc_setPc _⟩, ⟨_, exec_jpV0 s nnn, ?jpV0, s.framePc_setPc _⟩⟩
  case jp => rw [State.setPc_pc, toNat_zextAddr]
  case jpV0 => rw [State.setPc_pc, toNat_zextByte_add_zextAddr]

/-- Settles O42: all four are `skipIf`, two on an equality and two on its negation. -/
theorem skipsOnTheirConditions : Obligations.SkipsOnTheirConditions := by
  intro s x y kk
  exact ⟨⟨_, exec_seImm s x kk, s.skipIf_beq_pc _ _, s.framePc_skipIf _⟩,
    ⟨_, exec_sneImm s x kk, s.skipIf_bne_pc _ _, s.framePc_skipIf _⟩,
    ⟨_, exec_seReg s x y, s.skipIf_beq_pc _ _, s.framePc_skipIf _⟩,
    ⟨_, exec_sneReg s x y, s.skipIf_bne_pc _ _, s.framePc_skipIf _⟩⟩

end Sys2Proof.Machine
end

section
/-!
PROOFS of the register arithmetic and logic family (43_alu.md), but for the flag writers, and of Fx07. Every next state here
is `s.setReg x b`, so one frame lemma serves all eight instructions.
-/

namespace Sys2Proof.Machine

theorem State.frameV_setReg (s : State) (x : Reg) (b : Byte) : FrameV [x] s (s.setReg x b) := by
  refine ⟨fun z hz => ?_, s.setReg_readByte x b, rfl⟩
  rw [State.reg_setReg, if_neg (List.ne_of_not_mem_cons hz)]

/-! ### What each instruction answers -/

section
variable (s : State) (x y : Reg) (kk : Byte)

theorem exec_ldImm : exec (.ldImm x kk) s = .next (s.setReg x kk) := rfl

theorem exec_ldReg : exec (.ldReg x y) s = .next (s.setReg x (s.reg y)) := rfl

theorem exec_ldVxDT : exec (.ldVxDT x) s = .next (s.setReg x s.dt) := rfl

theorem exec_addImm : exec (.addImm x kk) s = .next (s.setReg x (s.reg x + kk)) := rfl

theorem exec_orReg : exec (.orReg x y) s = .next (s.setReg x (s.reg x ||| s.reg y)) := rfl

theorem exec_andReg : exec (.andReg x y) s = .next (s.setReg x (s.reg x &&& s.reg y)) := rfl

theorem exec_xorReg : exec (.xorReg x y) s = .next (s.setReg x (s.reg x ^^^ s.reg y)) := rfl

theorem exec_rnd : exec (.rnd x kk) s = .next (s.setReg x (s.rnd &&& kk)) := rfl

end

/-- A STEP(rnd) that fetches Cxkk runs it with that same `rnd` (R143). -/
theorem stepWith_rnd {s : State} {x : Reg} {kk : Byte} (rnd : Byte) (hcause : s.faultCause = .none)
    (hpc : s.pc.toNat ≤ 0xFFE) (hinstr : s.currentInstr = .rnd x kk) :
    stepWith rnd s = .next ((s.afterFetch rnd).setReg x (rnd &&& kk)) := by
  rw [stepWith_of_fetchable rnd hcause hpc, hinstr, exec_rnd, State.afterFetch_rnd]

/-! ### The obligations -/

/-- Settles O32: the STEP's next state is one write of `rnd &&& kk`, whose corners are the and with all ones and with
zero. -/
theorem randomByteIsMasked : Obligations.RandomByteIsMasked := by
  refine ⟨fun s x kk => ⟨_, exec_rnd s x kk, s.reg_setReg_self x _, s.frameV_setReg x _⟩, ?step⟩
  case step =>
    intro s x kk rnd hcause hpc hinstr
    refine ⟨_, stepWith_rnd rnd hcause hpc hinstr, ?_⟩
    rw [State.reg_setReg_self]
    refine ⟨fun k => BitVec.getLsbD_and, ?allOnes, ?zero, ?others⟩
    case allOnes =>
      rintro rfl
      exact BitVec.and_allOnes
    case zero =>
      rintro rfl
      exact BitVec.and_zero
    case others =>
      intro z hz
      rw [State.reg_setReg, if_neg hz, State.afterFetch_reg]

/-- Settles O25: each load is one register write. -/
theorem loadsSetOneRegister : Obligations.LoadsSetOneRegister := by
  intro s x y kk
  exact ⟨⟨_, exec_ldImm s x kk, s.reg_setReg_self x _, s.frameV_setReg x _⟩,
    ⟨_, exec_ldReg s x y, s.reg_setReg_self x _, s.frameV_setReg x _⟩,
    ⟨_, exec_ldVxDT s x, s.reg_setReg_self x _, s.frameV_setReg x _⟩⟩

/-- Settles O26: one register write of a sum of bytes, which wraps mod 256. -/
theorem addImmediateWraps : Obligations.AddImmediateWraps := by
  intro s x kk
  refine ⟨_, exec_addImm s x kk, ?sum, s.frameV_setReg x _⟩
  case sum => rw [State.reg_setReg_self, BitVec.toNat_add]

/-- Settles O27: each operation is one register write of a bitwise or, and, xor. -/
theorem bitwiseOperations : Obligations.BitwiseOperations := by
  intro s x y
  refine ⟨⟨_, exec_orReg s x y, s.frameV_setReg x _, fun k => ?or⟩,
    ⟨_, exec_andReg s x y, s.frameV_setReg x _, fun k => ?and⟩,
    ⟨_, exec_xorReg s x y, s.frameV_setReg x _, fun k => ?xor⟩⟩
  case or => rw [State.reg_setReg_self, BitVec.getLsbD_or]
  case and => rw [State.reg_setReg_self, BitVec.getLsbD_and]
  case xor => rw [State.reg_setReg_self, BitVec.getLsbD_xor]

end Sys2Proof.Machine
end

section
/-!
PROOFS of the index register's writers of the index and memory family (44_index_memory.md). Every next state here is
`s.setI a`, so one frame lemma serves all three instructions.
-/

namespace Sys2Proof.Machine

/-- What a write of I leaves alone: the whole state but I, and so every byte of memory. -/
theorem State.frameI_setI (s : State) (a : Word) :
    s.setI a = { s with i := (s.setI a).i } ∧ ∀ ad, (s.setI a).readByte ad = s.readByte ad := by
  refine ⟨?frame, s.setI_readByte a⟩
  case frame => rw [State.setI_i, State.setI]

/-- The address of R162 is at most 0x1B0 + 5 * 255 = 0x6AB, so 16 bits hold it. -/
theorem State.toNat_glyphAddr (s : State) (b : Byte) :
    (s.glyphAddr b).toNat = s.params.fontBase.val + 5 * b.toNat := by
  have hbase := s.params.fontBase.isLt
  have hb := b.isLt
  rw [State.glyphAddr, BitVec.toNat_ofNat]
  exact Nat.mod_eq_of_lt (by omega)

/-! ### What each instruction answers -/

section
variable (s : State) (x : Reg) (nnn : Addr12)

theorem exec_ldI : exec (.ldI nnn) s = .next (s.setI (zextAddr nnn)) := rfl

theorem exec_addI : exec (.addI x) s = .next (s.setI (s.i + zextByte (s.reg x))) := rfl

theorem exec_ldF : exec (.ldF x) s = .next (s.setI (s.glyphAddr (s.reg x))) := rfl

end

/-! ### The obligation -/

/-- Settles O33: all three are one write of I, of which only the sum of Fx1E can wrap. -/
theorem indexRegisterWrites : Obligations.IndexRegisterWrites := by
  intro s x nnn
  refine ⟨⟨_, exec_ldI s nnn, ?ldI, s.frameI_setI _⟩, ⟨_, exec_addI s x, ?addI, s.frameI_setI _⟩,
    ⟨_, exec_ldF s x, ?ldF, s.frameI_setI _⟩⟩
  case ldI => rw [State.setI_i, toNat_zextAddr]
  case addI => rw [State.setI_i, BitVec.toNat_add, toNat_zextByte]
  case ldF => rw [State.setI_i, State.toNat_glyphAddr]

end Sys2Proof.Machine
end

section
/-!
PROOFS of the keypad and timers family (45_keypad_timers.md), but for Fx07 and the two key skips.
-/

namespace Sys2Proof.Machine

/-! ### The key scan: both answers of `State.lowestKey`, from the levels of the keys -/

theorem State.lowestKey_eq_some {s : State} {k : KeyId} (hk : s.keyDown k = true)
    (hlower : ∀ j, j < k → s.keyDown j = false) : s.lowestKey = some k := by
  rcases s.lowestKey_cases with ⟨-, hnone⟩ | ⟨k', hfound, hk', hlower'⟩
  · exact absurd hk (Bool.eq_false_iff.mp (hnone k))
  · have hle : k ≤ k' := not_lt.mp fun hlt => Bool.eq_false_iff.mp (hlower k' hlt) hk'
    have hge : k' ≤ k := not_lt.mp fun hlt => Bool.eq_false_iff.mp (hlower' k hlt) hk
    rw [hfound, le_antisymm hge hle]

theorem State.lowestKey_eq_none {s : State} (hnone : ∀ k, s.keyDown k = false) : s.lowestKey = none := by
  rcases s.lowestKey_cases with ⟨hscan, -⟩ | ⟨k, -, hk, -⟩
  · exact hscan
  · exact absurd hk (Bool.eq_false_iff.mp (hnone k))

/-! ### The timers and the sound output -/

/-- What a write of DT leaves alone: the whole state but DT, and so every byte of memory. -/
theorem State.frameDt_setDt (s : State) (b : Byte) :
    s.setDt b = { s with dt := (s.setDt b).dt } ∧ ∀ a, (s.setDt b).readByte a = s.readByte a := by
  refine ⟨?frame, s.setDt_readByte b⟩
  case frame => rw [State.setDt_dt, State.setDt]

/-- What a write of ST leaves alone: the whole state but ST, and so every byte of memory. -/
theorem State.frameSt_setSt (s : State) (b : Byte) :
    s.setSt b = { s with st := (s.setSt b).st } ∧ ∀ a, (s.setSt b).readByte a = s.readByte a := by
  refine ⟨?frame, s.setSt_readByte b⟩
  case frame => rw [State.setSt_st, State.setSt]

theorem State.soundOn_iff (s : State) : s.soundOn = true ↔ s.st ≠ 0 := by
  rw [State.soundOn, decide_eq_true_iff, Nat.pos_iff_ne_zero, ne_eq, ne_eq, BitVec.toNat_eq]
  rfl

/-! ### What each instruction answers -/

section
variable {s : State} (x : Reg)

theorem exec_ldVxK_of_pressed {k : KeyId} (h : s.lowestKey = some k) :
    exec (.ldVxK x) s = .next (s.setReg x (BitVec.ofNat 8 k.val)) := by
  show execLdVxK x s = _
  rw [execLdVxK, h]

/-- The wait of R182: back to the instruction's own address. -/
theorem exec_ldVxK_of_released (h : s.lowestKey = none) : exec (.ldVxK x) s = .next (s.setPc (s.pc - 2)) := by
  show execLdVxK x s = _
  rw [execLdVxK, h]

theorem exec_ldDTVx : exec (.ldDTVx x) s = .next (s.setDt (s.reg x)) := rfl

theorem exec_ldSTVx : exec (.ldSTVx x) s = .next (s.setSt (s.reg x)) := rfl

end

/-! ### The obligations -/

/-- Settles O44: the two cases are the two answers of the key scan, one a register write and the other a write of PC. -/
theorem waitsForTheLowestKey : Obligations.WaitsForTheLowestKey := by
  intro s x
  refine ⟨fun k hk hlower => ?pressed, fun hnone => ?released⟩
  case pressed =>
    refine ⟨_, exec_ldVxK_of_pressed x (State.lowestKey_eq_some hk hlower), ?_, s.frameV_setReg x _⟩
    rw [State.reg_setReg_self, BitVec.toNat_ofNat]
    exact Nat.mod_eq_of_lt (by omega)
  case released =>
    exact ⟨_, exec_ldVxK_of_released x (State.lowestKey_eq_none hnone), s.setPc_pc _, s.framePc_setPc _⟩

/-- Settles O45: each instruction is one write of a timer, and the sound output reads ST alone. -/
theorem timerWrites : Obligations.TimerWrites := by
  intro s x
  refine ⟨⟨_, exec_ldDTVx x, s.setDt_dt _, s.frameDt_setDt _⟩,
    ⟨_, exec_ldSTVx x, s.setSt_st _, ?sound, s.frameSt_setSt _⟩⟩
  case sound => rw [State.soundOn_iff, State.setSt_st]

end Sys2Proof.Machine
end

section
/-!
PROOFS of the exceptions family (60_exceptions.md): TICK.
-/

namespace Sys2Proof.Machine

/-- The clamp of R220 is subtraction on the naturals: a timer at 0 stays there, and one above 0 does not wrap. -/
theorem toNat_tickTimer (b : Byte) : (tickTimer b).toNat = b.toNat - 1 := by
  rw [tickTimer]
  split
  case isTrue h => rw [h]; rfl
  case isFalse h => bv_omega

/-- What a TICK leaves alone: the whole state but DT and ST. -/
theorem State.frameTimers_tick (s : State) : s.tick = { s with dt := s.tick.dt, st := s.tick.st } := by
  rw [State.tick_dt, State.tick_st, State.tick]

theorem runCommand_tick (s : State) : runCommand .tick s = .next s.tick := rfl

/-- Settles O49: TICK is `State.tick` in every state, which counts each timer down by `tickTimer`. -/
theorem tickCountsTheTimersDown : Obligations.TickCountsTheTimersDown := by
  intro s
  refine ⟨s.tick, runCommand_tick s, ?dt, ?st, s.tick_reg, s.tick_readByte, s.frameTimers_tick⟩
  case dt => rw [State.tick_dt, toNat_tickTimer]
  case st => rw [State.tick_st, toNat_tickTimer]

end Sys2Proof.Machine
end

section
/-!
PROOFS of the round trip between words and instructions, and of the don't-care bits (30_encoding.md).
-/

namespace Sys2Proof.Machine

/-! ### The fields of each format's word, one by one, for `simp` -/

section
variable {op : Nat} (h : op < 16)
include h

@[simp] theorem topNibble_formatA (nnn : Addr12) : topNibble (formatA op nnn) = op := (formatA_fields op nnn h).1

@[simp] theorem fieldNNN_formatA (nnn : Addr12) : fieldNNN (formatA op nnn) = nnn := (formatA_fields op nnn h).2.1

@[simp] theorem topNibble_formatXK (x : Reg) (kk : Byte) : topNibble (formatXK op x kk) = op :=
  (formatXK_fields op x kk h).1

@[simp] theorem fieldX_formatXK (x : Reg) (kk : Byte) : fieldX (formatXK op x kk) = x := (formatXK_fields op x kk h).2.1

@[simp] theorem fieldKK_formatXK (x : Reg) (kk : Byte) : fieldKK (formatXK op x kk) = kk :=
  (formatXK_fields op x kk h).2.2

@[simp] theorem topNibble_formatX (x : Reg) {sub : Nat} (hs : sub < 256) : topNibble (formatX op x sub) = op :=
  (formatX_fields op x sub h hs).1

@[simp] theorem fieldX_formatX (x : Reg) {sub : Nat} (hs : sub < 256) : fieldX (formatX op x sub) = x :=
  (formatX_fields op x sub h hs).2.1

@[simp] theorem toNat_formatX_mod_256 (x : Reg) {sub : Nat} (hs : sub < 256) : (formatX op x sub).toNat % 256 = sub :=
  (formatX_fields op x sub h hs).2.2.1

@[simp] theorem toNat_formatX_mod_16 (x : Reg) {sub : Nat} (hs : sub < 256) :
    (formatX op x sub).toNat % 16 = sub % 16 := (formatX_fields op x sub h hs).2.2.2

section
variable (x y : Reg) {low : Nat} (hl : low < 16)
include hl

@[simp] theorem topNibble_formatXY : topNibble (formatXY op x y low) = op := (formatXY_fields op x y low h hl).1

@[simp] theorem fieldX_formatXY : fieldX (formatXY op x y low) = x := (formatXY_fields op x y low h hl).2.1

@[simp] theorem fieldY_formatXY : fieldY (formatXY op x y low) = y := (formatXY_fields op x y low h hl).2.2.1

@[simp] theorem toNat_formatXY_mod_16 : (formatXY op x y low).toNat % 16 = low := (formatXY_fields op x y low h hl).2.2.2

end

@[simp] theorem fieldN_formatXY (x y : Reg) (n : Fin 16) : fieldN (formatXY op x y n.val) = n :=
  Fin.ext (toNat_formatXY_mod_16 h x y n.isLt)

/-! ### The sub-opcode of a format A word is that of its 12 bits -/

theorem key_formatA (sd : SubDecode) (nnn : Addr12) : sd.key (formatA op nnn).toNat = sd.key nnn.toNat := by
  obtain ⟨-, -, h256, h16⟩ := formatA_fields op nnn h
  cases sd with
  | byte => exact h256
  | nibble => exact h16

end

/-! ### Decoding the encoder's word -/

/-- By the instruction's format; a NOP's word is unmapped in its family because the NOP is well formed. -/
theorem decodeWord_encode {sd : SubDecode} {i : Instr} (hwf : i.wf sd = true) : decodeWord sd (encode i) = i := by
  cases i with
  | cls | ret => cases sd <;> rfl
  | jp nnn | call nnn | ldI nnn | jpV0 nnn => simp [encode, decodeWord]
  | seImm x kk | sneImm x kk | ldImm x kk | addImm x kk | rnd x kk => simp [encode, decodeWord]
  | seReg x y | sneReg x y | drw x y n => simp [encode, decodeWord]
  | ldReg x y | orReg x y | andReg x y | xorReg x y | addReg x y | subReg x y | shrReg x y | subnReg x y | shlReg x y =>
    simp [encode, decodeWord, decodeFamily8]
  | skp x | sknp x => cases sd <;> simp [encode, decodeWord, decodeFamilyE]
  | ldVxDT x | ldVxK x | ldDTVx x | ldSTVx x | addI x | ldF x | ldB x | ldMemVx x | ldVxMem x =>
    simp [encode, decodeWord, decodeFamilyF]
  | nop0 rest =>
    have hu : sd.key (formatA 0x0 rest).toNat ∉ sd.mapped0 := by
      simpa [Instr.wf, key_formatA] using hwf
    simp [encode, decodeWord, decodeFamily0_of_unmapped hu]
  | nop8 rest =>
    have hu : (formatA 0x8 rest).toNat % 16 ∉ mapped8 := by
      simpa [Instr.wf, (formatA_fields 0x8 rest (by decide)).2.2.2] using hwf
    simp [encode, decodeWord, decodeFamily8_of_unmapped hu]
  | nopE rest =>
    have hu : sd.key (formatA 0xE rest).toNat ∉ sd.mappedE := by
      simpa [Instr.wf, key_formatA] using hwf
    simp [encode, decodeWord, decodeFamilyE_of_unmapped hu]
  | nopF rest =>
    have hu : (formatA 0xF rest).toNat % 256 ∉ mappedF := by
      simpa [Instr.wf, (formatA_fields 0xF rest (by decide)).2.2.1] using hwf
    simp [encode, decodeWord, decodeFamilyF_of_unmapped hu]

/-- Settles O1: the decoder reads the instruction's two bytes, and its word decodes to it. -/
theorem encodeThenDecodeIsIdentity : Obligations.EncodeThenDecodeIsIdentity := by
  intro sd i rest hwf
  rw [encodeBytes, decode_wordBytes, decodeWord_encode hwf]

/-! ### A decoded instruction is well formed -/

theorem wf_of_not_isNop (sd : SubDecode) {i : Instr} (h : ¬ isNop i) : i.wf sd = true := by
  cases i with
  | nop0 r => exact absurd ⟨r, .inl rfl⟩ h
  | nop8 r => exact absurd ⟨r, .inr (.inl rfl)⟩ h
  | nopE r => exact absurd ⟨r, .inr (.inr (.inl rfl))⟩ h
  | nopF r => exact absurd ⟨r, .inr (.inr (.inr rfl))⟩ h
  | _ => rfl

@[simp] theorem toNat_fieldNNN_mod_256 (w : Word) : (fieldNNN w).toNat % 256 = w.toNat % 256 := by
  rw [fieldNNN, BitVec.toNat_ofNat]
  omega

@[simp] theorem toNat_fieldNNN_mod_16 (w : Word) : (fieldNNN w).toNat % 16 = w.toNat % 16 := by
  rw [fieldNNN, BitVec.toNat_ofNat]
  omega

@[simp] theorem key_fieldNNN (sd : SubDecode) (w : Word) : sd.key (fieldNNN w).toNat = sd.key w.toNat := by
  cases sd with
  | byte => exact toNat_fieldNNN_mod_256 w
  | nibble => exact toNat_fieldNNN_mod_16 w

theorem wf_decodeWord_of_unmapped {sd : SubDecode} {w : Word} (h : Unmapped sd w) : (decodeWord sd w).wf sd = true := by
  obtain ⟨hw, hu⟩ | ⟨hw, hu⟩ | ⟨hw, hu⟩ | ⟨hw, hu⟩ := h
  · simp [decodeWord, hw, decodeFamily0_of_unmapped hu, Instr.wf, hu]
  · simp [decodeWord, hw, decodeFamily8_of_unmapped hu, Instr.wf, hu]
  · simp [decodeWord, hw, decodeFamilyE_of_unmapped hu, Instr.wf, hu]
  · simp [decodeWord, hw, decodeFamilyF_of_unmapped hu, Instr.wf, hu]

/-- Only a NOP can be ill formed, and the decoder answers one for unmapped words alone. -/
theorem wf_decodeWord (sd : SubDecode) (w : Word) : (decodeWord sd w).wf sd = true := by
  by_cases hu : Unmapped sd w
  · exact wf_decodeWord_of_unmapped hu
  · exact wf_of_not_isNop sd fun hnop => hu ((isNop_decodeWord_iff sd w).mp hnop)

/-! ### A word put together again from its fields -/

section
variable {w : Word} {op : Nat} (h : topNibble w = op)
include h

theorem formatA_fields_of_word : formatA op (fieldNNN w) = w := by
  refine BitVec.eq_of_toNat_eq ?_
  simp only [topNibble, fieldNNN, formatA, BitVec.toNat_ofNat] at *
  omega

theorem formatXK_fields_of_word : formatXK op (fieldX w) (fieldKK w) = w := by
  refine BitVec.eq_of_toNat_eq ?_
  simp only [topNibble, fieldX, fieldKK, formatXK, BitVec.toNat_ofNat] at *
  omega

theorem formatXY_fields_of_word {low : Nat} (hl : w.toNat % 16 = low) : formatXY op (fieldX w) (fieldY w) low = w := by
  refine BitVec.eq_of_toNat_eq ?_
  simp only [topNibble, fieldX, fieldY, formatXY, BitVec.toNat_ofNat] at *
  omega

theorem formatX_fields_of_word {sub : Nat} (hs : w.toNat % 256 = sub) : formatX op (fieldX w) sub = w := by
  refine BitVec.eq_of_toNat_eq ?_
  simp only [topNibble, fieldX, formatX, BitVec.toNat_ofNat] at *
  omega

end

theorem encode_decodeFamily8 {w : Word} (h : topNibble w = 0x8) : encode (decodeFamily8 w) = w := by
  unfold decodeFamily8
  split
  case h_10 => exact formatA_fields_of_word h
  all_goals exact formatXY_fields_of_word h ‹_›

theorem encode_decodeFamilyF {w : Word} (h : topNibble w = 0xF) : encode (decodeFamilyF w) = w := by
  unfold decodeFamilyF
  split
  case h_10 => exact formatA_fields_of_word h
  all_goals exact formatX_fields_of_word h ‹_›

theorem encode_decodeFamilyE_byte {w : Word} (h : topNibble w = 0xE) : encode (decodeFamilyE .byte w) = w := by
  simp only [decodeFamilyE]
  split_ifs with hskp hsknp
  · exact formatX_fields_of_word h hskp
  · exact formatX_fields_of_word h hsknp
  · exact formatA_fields_of_word h

theorem encode_decodeFamily0_byte {w : Word} (h : topNibble w = 0x0) (hcls : decodeFamily0 .byte w ≠ .cls)
    (hret : decodeFamily0 .byte w ≠ .ret) : encode (decodeFamily0 .byte w) = w := by
  simp only [decodeFamily0] at hcls hret ⊢
  split_ifs with he0 hee
  · exact absurd (if_pos he0) hcls
  · exact absurd (by rw [if_neg he0, if_pos hee]) hret
  · exact formatA_fields_of_word h

/-- The don't-care bits of R77 are the only ones that decoding under SUBDECODE_0E = byte drops. -/
theorem encode_decodeWord_byte {w : Word} (hcls : decodeWord .byte w ≠ .cls) (hret : decodeWord .byte w ≠ .ret)
    (hse : ∀ x y, decodeWord .byte w ≠ .seReg x y) (hsne : ∀ x y, decodeWord .byte w ≠ .sneReg x y) :
    encode (decodeWord .byte w) = w := by
  match h : topNibble w, topNibble_lt w with
  | 0x0, _ =>
    simp only [decodeWord, h] at hcls hret ⊢
    exact encode_decodeFamily0_byte h hcls hret
  | 0x1, _ | 0x2, _ | 0xA, _ | 0xB, _ =>
    simp only [decodeWord, h]
    exact formatA_fields_of_word h
  | 0x3, _ | 0x4, _ | 0x6, _ | 0x7, _ | 0xC, _ =>
    simp only [decodeWord, h]
    exact formatXK_fields_of_word h
  | 0x5, _ => exact absurd (by simp only [decodeWord, h]) (hse (fieldX w) (fieldY w))
  | 0x8, _ =>
    simp only [decodeWord, h]
    exact encode_decodeFamily8 h
  | 0x9, _ => exact absurd (by simp only [decodeWord, h]) (hsne (fieldX w) (fieldY w))
  | 0xD, _ =>
    simp only [decodeWord, h]
    exact formatXY_fields_of_word h rfl
  | 0xE, _ =>
    simp only [decodeWord, h]
    exact encode_decodeFamilyE_byte h
  | 0xF, _ =>
    simp only [decodeWord, h]
    exact encode_decodeFamilyF h
  | n + 16, hlt => omega

/-- Settles O2: a decoded instruction is well formed, so its word decodes to it by the round trip of O1. -/
theorem decodeThenEncodeKeepsTheWord : Obligations.DecodeThenEncodeKeepsTheWord :=
  ⟨fun sd w => ⟨wf_decodeWord sd w, decodeWord_encode (wf_decodeWord sd w)⟩, fun _ => encode_decodeWord_byte⟩

/-- Settles O4: the decoder evaluated on ten closed words. -/
theorem sampleWordsDecode : Obligations.SampleWordsDecode := by
  unfold Obligations.SampleWordsDecode
  decide

/-! ### Don't-care bits -/

/-- In family 0x0 the sub-opcode decides what happens: CLS, RET, or a NOP whose bits do not matter. -/
theorem exec_decodeFamily0_congr (sd : SubDecode) {w u : Word} (s : State) (h : sd.key w.toNat = sd.key u.toNat) :
    exec (decodeFamily0 sd w) s = exec (decodeFamily0 sd u) s := by
  cases sd with
  | byte =>
    simp only [decodeFamily0, show w.toNat % 256 = u.toNat % 256 from h]
    split_ifs <;> rfl
  | nibble =>
    simp only [decodeFamily0, show w.toNat % 16 = u.toNat % 16 from h]
    split_ifs <;> rfl

/-- In family 0xE the sub-opcode and x decide: SKP, SKNP, or a NOP whose bits do not matter. -/
theorem exec_decodeFamilyE_nibble_congr {w u : Word} (s : State) (hx : fieldX w = fieldX u)
    (h : w.toNat % 16 = u.toNat % 16) : exec (decodeFamilyE .nibble w) s = exec (decodeFamilyE .nibble u) s := by
  simp only [decodeFamilyE, hx, h]
  split_ifs <;> rfl

theorem decodeWord_of_family0 (sd : SubDecode) {w : Word} (h : topNibble w = 0x0) :
    decodeWord sd w = decodeFamily0 sd w := by
  simp only [decodeWord, h]

theorem decodeWord_of_familyE (sd : SubDecode) {w : Word} (h : topNibble w = 0xE) :
    decodeWord sd w = decodeFamilyE sd w := by
  simp only [decodeWord, h]

theorem exec_decodeWord_family0_congr (sd : SubDecode) {w u : Word} (s : State) (hw : topNibble w = 0x0)
    (hu : topNibble u = 0x0) (h : sd.key w.toNat = sd.key u.toNat) :
    exec (decodeWord sd w) s = exec (decodeWord sd u) s := by
  rw [decodeWord_of_family0 sd hw, decodeWord_of_family0 sd hu]
  exact exec_decodeFamily0_congr sd s h

theorem key_eq_of_mod_256 (sd : SubDecode) {m n : Nat} (h : m % 256 = n % 256) : sd.key m = sd.key n := by
  cases sd with
  | byte => exact h
  | nibble => show m % 16 = n % 16; omega

/-- Settles O6: two words with the same sub-opcode run alike, and families 0x5 and 0x9 decode without one. -/
theorem ignoredBitsDoNotMatter : Obligations.IgnoredBitsDoNotMatter := by
  refine ⟨fun sd w u s hw hu h => exec_decodeWord_family0_congr sd s hw hu (key_eq_of_mod_256 sd h),
    fun sd w h => ?se, fun sd w h => ?sne, fun w u s hw hu h => exec_decodeWord_family0_congr .nibble s hw hu h,
    fun w u s hw hu hx h => ?nibbleE⟩
  case se =>
    have hfam : topNibble w = 0x5 := ((and_F000_eq_iff w _).mp h).1
    simp only [decodeWord, hfam, sliceX_eq_fieldX, sliceY_eq_fieldY]
  case sne =>
    have hfam : topNibble w = 0x9 := ((and_F000_eq_iff w _).mp h).1
    simp only [decodeWord, hfam, sliceX_eq_fieldX, sliceY_eq_fieldY]
  case nibbleE =>
    rw [decodeWord_of_familyE _ hw, decodeWord_of_familyE _ hu]
    exact exec_decodeFamilyE_nibble_congr s (by simpa using hx) h

end Sys2Proof.Machine
end

section
/-!
PROOFS: what an instruction can do. `Faults` lists the faults of 60_exceptions.md R201 that an instruction raises, `Effect`
every next state an instruction leads to; the statements about every instruction and every step are read off the two.
-/

namespace Sys2Proof.Machine

/-! ### The faults of the instructions -/

/-- In the state `s`, in which it runs, instruction `i` raises the fault `c` with information `n` (R201, R202). -/
inductive Faults (s : State) : Instr → FaultCause → Word → Prop
  | drw {x y : Reg} {n : Fin 16} (hn : 0 < n.val) (h : 0xFFF < s.i.toNat + n.val - 1) :
      Faults s (.drw x y n) .memReadOutOfBounds s.firstOutOfBounds
  | ldVxMem {x : Reg} (h : 0xFFF < s.i.toNat + x.val) : Faults s (.ldVxMem x) .memReadOutOfBounds s.firstOutOfBounds
  | ldB {x : Reg} (h : 0xFFF < s.i.toNat + 2) : Faults s (.ldB x) .memWriteOutOfBounds s.firstOutOfBounds
  | ldMemVx {x : Reg} (h : 0xFFF < s.i.toNat + x.val) : Faults s (.ldMemVx x) .memWriteOutOfBounds s.firstOutOfBounds
  | call {nnn : Addr12} (h : s.sp.val = 16) : Faults s (.call nnn) .stackOverflow 16
  | ret (h : s.sp.val = 0) : Faults s .ret .stackUnderflow 0
  | skp {x : Reg} (h : 0xF < (s.reg x).toNat) : Faults s (.skp x) .keyIndexOutOfRange (zextByte (s.reg x))
  | sknp {x : Reg} (h : 0xF < (s.reg x).toNat) : Faults s (.sknp x) .keyIndexOutOfRange (zextByte (s.reg x))

theorem Faults.cause_ne_none {s : State} {i : Instr} {c : FaultCause} {n : Word} (h : Faults s i c n) : c ≠ .none := by
  cases h <;> exact FaultCause.noConfusion

/-! ### What the instructions with a check answer -/

section
variable (s : State) (x y : Reg)

theorem exec_drw (n : Fin 16) :
    exec (.drw x y n) s = .next (s.withIRange n.val .memReadOutOfBounds (fun s => s.draw x y n)) := rfl

theorem exec_ldVxMem : exec (.ldVxMem x) s = .next (s.withIRange (x.val + 1) .memReadOutOfBounds
    (fun s => State.setRegsFrom 0 (s.readBytes s.i.toNat (x.val + 1)) s)) := rfl

theorem exec_ldB : exec (.ldB x) s = .next (s.withIRange 3 .memWriteOutOfBounds
    (fun s => s.writeBytes s.i.toNat (bcdDigits (s.reg x)))) := rfl

theorem exec_ldMemVx : exec (.ldMemVx x) s = .next (s.withIRange (x.val + 1) .memWriteOutOfBounds
    (fun s => s.writeBytes s.i.toNat (s.regsUpTo x))) := rfl

theorem exec_skp : exec (.skp x) s = .next (s.withKey x (fun k => s.skipIf (s.keyDown k))) := rfl

theorem exec_sknp : exec (.sknp x) s = .next (s.withKey x (fun k => s.skipIf (!s.keyDown k))) := rfl

theorem exec_call_of_lt (nnn : Addr12) (h : s.sp.val < 16) :
    exec (.call nnn) s = .next ((s.push s.pc h).setPc (zextAddr nnn)) := dif_pos h

theorem exec_call_of_full (nnn : Addr12) (h : s.sp.val = 16) :
    exec (.call nnn) s = .next (s.raiseFault .stackOverflow 16) := dif_neg (by omega)

theorem exec_ret_of_pos (h : 0 < s.sp.val) : exec .ret s = .next (s.pop.setPc (s.stackTop h)) := dif_pos h

theorem exec_ret_of_empty (h : s.sp.val = 0) : exec .ret s = .next (s.raiseFault .stackUnderflow 0) :=
  dif_neg (by omega)

end

theorem exec_of_faults {s : State} {i : Instr} {c : FaultCause} {n : Word} (h : Faults s i c n) :
    exec i s = .next (s.raiseFault c n) := by
  cases h with
  | drw hn h => rw [exec_drw, s.withIRange_out _ _ _ hn h]
  | ldVxMem h => rw [exec_ldVxMem, s.withIRange_out _ _ _ (by omega) (by omega)]
  | ldB h => rw [exec_ldB, s.withIRange_out _ _ _ (by omega) (by omega)]
  | ldMemVx h => rw [exec_ldMemVx, s.withIRange_out _ _ _ (by omega) (by omega)]
  | call h => exact exec_call_of_full s _ h
  | ret h => exact exec_ret_of_empty s h
  | skp h => rw [exec_skp, s.withKey_out _ _ h]
  | sknp h => rw [exec_sknp, s.withKey_out _ _ h]

/-! ### The effects of the instructions -/

/-- The flag writers, and the instructions that name VF as their destination (10_state.md R23). -/
def writesFlagRegister (i : Instr) : Prop :=
  (∃ x y, i = .addReg x y ∨ i = .subReg x y ∨ i = .shrReg x y ∨ i = .subnReg x y ∨ i = .shlReg x y) ∨
  (∃ x y n, i = .drw x y n) ∨
  (∃ kk, i = .ldImm 15 kk ∨ i = .addImm 15 kk ∨ i = .rnd 15 kk) ∨
  (∃ y, i = .ldReg 15 y ∨ i = .orReg 15 y ∨ i = .andReg 15 y ∨ i = .xorReg 15 y) ∨
  i = .ldVxDT 15 ∨ i = .ldVxK 15 ∨ i = .ldVxMem 15

/-- The skips (42_flow.md R114 to R117, 45_keypad_timers.md R180, R181). -/
def isSkip (i : Instr) : Prop :=
  (∃ x kk, i = .seImm x kk ∨ i = .sneImm x kk) ∨ (∃ x y, i = .seReg x y ∨ i = .sneReg x y) ∨
  ∃ x, i = .skp x ∨ i = .sknp x

/-- The state after instruction `i` ran in the state `s`: which part of the state it may have changed, with what the
invariants need of the new values. -/
inductive Effect (s : State) : Instr → State → Prop
  | fault {i : Instr} {c : FaultCause} {n : Word} (h : Faults s i c n) : Effect s i (s.raiseFault c n)
  | nop {i : Instr} (h : isNop i) : Effect s i s
  | regs {i : Instr} (v : Vector Byte 16) (h : v[15] = s.v[15] ∨ writesFlagRegister i) : Effect s i { s with v := v }
  | index {i : Instr} (a : Word) (h : (∃ nnn, i = .ldI nnn) ∨ ∃ x, i = .addI x ∨ i = .ldF x) : Effect s i (s.setI a)
  | delay (x : Reg) (b : Byte) : Effect s (.ldDTVx x) (s.setDt b)
  | sound (x : Reg) (b : Byte) : Effect s (.ldSTVx x) (s.setSt b)
  | store {i : Instr} (a : Nat) (bs : List Byte) (h : ∃ x, i = .ldB x ∨ i = .ldMemVx x) : Effect s i (s.writeBytes a bs)
  | cls : Effect s .cls (s.setFb Framebuffer.blank)
  | draw (x y : Reg) (n : Fin 16) (g : Framebuffer) (f : Byte) : Effect s (.drw x y n) ((s.setFb g).setVF f)
  | jump {i : Instr} (a : Word) (h : ∃ nnn, i = .jp nnn ∨ i = .jpV0 nnn) (ha : a.toNat ≤ 0x10FE) : Effect s i (s.setPc a)
  | skip {i : Instr} (a : Word) (h : isSkip i) (ha : a = s.pc ∨ a = s.pc + 2) : Effect s i (s.setPc a)
  | wait (x : Reg) : Effect s (.ldVxK x) (s.setPc (s.pc - 2))
  | call (nnn : Addr12) (h : s.sp.val < 16) : Effect s (.call nnn) ((s.push s.pc h).setPc (zextAddr nnn))
  | ret (h : 0 < s.sp.val) : Effect s .ret (s.pop.setPc (s.stackTop h))

section
variable {s : State} {i : Instr}

theorem Effect.skipIf (b : Bool) (h : isSkip i) : Effect s i (s.skipIf b) := by
  rw [State.skipIf_frame]
  refine .skip _ h ?_
  cases b with
  | false => exact .inl (BitVec.add_zero _)
  | true => exact .inr rfl

theorem Effect.setReg (x : Reg) (b : Byte) (h : x ≠ 15 ∨ writesFlagRegister i) : Effect s i (s.setReg x b) :=
  .regs _ (h.imp_left fun hx => Vector.getElem_set_ne _ _ fun e => hx (Fin.ext e))

theorem Effect.flagThenResult (f : Byte) (x : Reg) (r : State → Byte) (h : writesFlagRegister i) :
    Effect s i (s.flagThenResult f x r) :=
  .regs _ (.inr h)

theorem Effect.withIRange {len : Nat} {c : FaultCause} {go : State → State}
    (hout : 0 < len → 0xFFF < s.i.toNat + len - 1 → Faults s i c s.firstOutOfBounds) (hin : Effect s i (go s)) :
    Effect s i (s.withIRange len c go) := by
  obtain ⟨h, hlen, heq⟩ | ⟨-, heq⟩ := s.withIRange_cases len c go
  · rw [heq]
    exact .fault (hout hlen h)
  · rwa [heq]

theorem Effect.withKey {x : Reg} {go : KeyId → State}
    (hout : 0xF < (s.reg x).toNat → Faults s i .keyIndexOutOfRange (zextByte (s.reg x)))
    (hin : ∀ k, Effect s i (go k)) : Effect s i (s.withKey x go) := by
  obtain ⟨h, heq⟩ | ⟨k, -, heq⟩ := s.withKey_cases x go
  · rw [heq]
    exact .fault (hout h)
  · rw [heq]
    exact hin k

theorem Effect.setRegsFrom {x : Reg} {bs : List Byte} (hlen : bs.length = x.val + 1) :
    Effect s (.ldVxMem x) (State.setRegsFrom 0 bs s) := by
  rw [State.setRegsFrom_frame]
  refine .regs _ ?_
  by_cases hx : x = 15
  · exact .inr (by simp [writesFlagRegister, hx])
  · have hlt : ¬ (0 ≤ 15 ∧ 15 < 0 + bs.length) := by
      have : x.val ≠ 15 := fun e => hx (Fin.ext e)
      omega
    exact .inl ((State.reg_setRegsFrom 15 bs 0 s).trans (if_neg hlt))

end

/-- Every instruction answers a next state, and `Effect` says which. -/
theorem exec_effect (i : Instr) (s : State) : ∃ t, exec i s = .next t ∧ Effect s i t := by
  cases i with
  | cls => exact ⟨_, exec_cls s, .cls⟩
  | ret =>
    by_cases h : 0 < s.sp.val
    · exact ⟨_, exec_ret_of_pos s h, .ret h⟩
    · exact ⟨_, exec_ret_of_empty s (by omega), .fault (.ret (by omega))⟩
  | jp nnn =>
    refine ⟨_, exec_jp s nnn, .jump _ ⟨nnn, .inl rfl⟩ ?_⟩
    have := nnn.isLt
    rw [toNat_zextAddr]
    omega
  | jpV0 nnn =>
    refine ⟨_, exec_jpV0 s nnn, .jump _ ⟨nnn, .inr rfl⟩ ?_⟩
    have := nnn.isLt
    have := (s.reg 0).isLt
    rw [toNat_zextByte_add_zextAddr]
    omega
  | call nnn =>
    by_cases h : s.sp.val < 16
    · exact ⟨_, exec_call_of_lt s nnn h, .call nnn h⟩
    · exact ⟨_, exec_call_of_full s nnn (by omega), .fault (.call (by omega))⟩
  | seImm x kk | sneImm x kk | seReg x y | sneReg x y => exact ⟨_, rfl, .skipIf _ (by simp [isSkip])⟩
  | skp x => exact ⟨_, exec_skp s x, .withKey .skp fun k => .skipIf _ (by simp [isSkip])⟩
  | sknp x => exact ⟨_, exec_sknp s x, .withKey .sknp fun k => .skipIf _ (by simp [isSkip])⟩
  | ldImm x kk | addImm x kk | rnd x kk | ldReg x y | orReg x y | andReg x y | xorReg x y | ldVxDT x =>
    refine ⟨_, rfl, .setReg x _ ?_⟩
    by_cases hx : x = 15 <;> simp [writesFlagRegister, hx]
  | addReg x y | subReg x y | shrReg x y | subnReg x y | shlReg x y =>
    exact ⟨_, rfl, .flagThenResult _ x _ (by simp [writesFlagRegister])⟩
  | ldI nnn | addI x | ldF x => exact ⟨_, rfl, .index _ (by simp)⟩
  | drw x y n => exact ⟨_, exec_drw s x y n, .withIRange .drw (.draw x y n _ _)⟩
  | ldVxK x =>
    obtain ⟨hnone, -⟩ | ⟨k, hk, -⟩ := s.lowestKey_cases
    · exact ⟨_, exec_ldVxK_of_released x hnone, .wait x⟩
    · refine ⟨_, exec_ldVxK_of_pressed x hk, .setReg x _ ?_⟩
      by_cases hx : x = 15 <;> simp [writesFlagRegister, hx]
  | ldDTVx x => exact ⟨_, exec_ldDTVx x, .delay x _⟩
  | ldSTVx x => exact ⟨_, exec_ldSTVx x, .sound x _⟩
  | ldB x => exact ⟨_, exec_ldB s x, .withIRange (fun _ h => .ldB h) (.store _ _ ⟨x, .inl rfl⟩)⟩
  | ldMemVx x => exact ⟨_, exec_ldMemVx s x, .withIRange (fun _ h => .ldMemVx h) (.store _ _ ⟨x, .inr rfl⟩)⟩
  | ldVxMem x => exact ⟨_, exec_ldVxMem s x, .withIRange (fun _ h => .ldVxMem h) (.setRegsFrom (by simp))⟩
  | nop0 rest | nop8 rest | nopE rest | nopF rest => exact ⟨_, rfl, .nop (by simp [isNop])⟩

theorem Effect.of_exec {i : Instr} {s t : State} (h : exec i s = .next t) : Effect s i t := by
  obtain ⟨t', h', heff⟩ := exec_effect i s
  cases h.symm.trans h'
  exact heff

end Sys2Proof.Machine
end

section
/-!
PROOFS of the statements about every instruction: the faults of 60_exceptions.md, and who writes what (10_state.md,
20_memory.md).
-/

namespace Sys2Proof.Machine

/-! ### The faults of an instruction from the record it leaves -/

section
variable {i : Instr} {s t : State} (hs : s.faultCause = .none) (hexec : exec i s = .next t)
include hs hexec

/-- Only a fault writes the record (60_exceptions.md R200). -/
theorem faults_of_faultCause_ne_none (ht : t.faultCause ≠ .none) :
    Faults s i t.faultCause t.faultInfo ∧ t = s.raiseFault t.faultCause t.faultInfo := by
  cases Effect.of_exec hexec with
  | fault h => exact ⟨h, rfl⟩
  | _ => exact absurd hs ht

theorem faultCause_eq_iff {c : FaultCause} (hc : c ≠ .none) : t.faultCause = c ↔ ∃ n, Faults s i c n := by
  constructor
  · rintro rfl
    exact ⟨_, (faults_of_faultCause_ne_none hs hexec hc).1⟩
  · rintro ⟨n, h⟩
    cases (exec_of_faults h).symm.trans hexec
    exact s.raiseFault_faultCause c n

theorem faults_of_faultCause_eq {c : FaultCause} (hc : c ≠ .none) (ht : t.faultCause = c) : Faults s i c t.faultInfo := by
  subst ht
  exact (faults_of_faultCause_ne_none hs hexec hc).1

end

/-! ### The cases of each cause (R201) -/

section
variable {s : State} {i : Instr}

theorem faults_fetchOutOfBounds_iff : (∃ n, Faults s i .fetchOutOfBounds n) ↔ False := by
  refine ⟨?_, False.elim⟩
  rintro ⟨_, h⟩
  cases h

theorem faults_memReadOutOfBounds_iff : (∃ n, Faults s i .memReadOutOfBounds n) ↔
    (∃ x y n, i = .drw x y n ∧ 0 < n.val ∧ 0xFFF < s.i.toNat + n.val - 1) ∨
      ∃ x, i = .ldVxMem x ∧ 0xFFF < s.i.toNat + x.val := by
  constructor
  · rintro ⟨_, h⟩
    cases h with
    | drw hn h => exact .inl ⟨_, _, _, rfl, hn, h⟩
    | ldVxMem h => exact .inr ⟨_, rfl, h⟩
  · rintro (⟨x, y, n, rfl, hn, h⟩ | ⟨x, rfl, h⟩)
    · exact ⟨_, .drw hn h⟩
    · exact ⟨_, .ldVxMem h⟩

theorem faults_memWriteOutOfBounds_iff : (∃ n, Faults s i .memWriteOutOfBounds n) ↔
    (∃ x, i = .ldB x ∧ 0xFFF < s.i.toNat + 2) ∨ ∃ x, i = .ldMemVx x ∧ 0xFFF < s.i.toNat + x.val := by
  constructor
  · rintro ⟨_, h⟩
    cases h with
    | ldB h => exact .inl ⟨_, rfl, h⟩
    | ldMemVx h => exact .inr ⟨_, rfl, h⟩
  · rintro (⟨x, rfl, h⟩ | ⟨x, rfl, h⟩)
    · exact ⟨_, .ldB h⟩
    · exact ⟨_, .ldMemVx h⟩

theorem faults_stackOverflow_iff : (∃ n, Faults s i .stackOverflow n) ↔ s.sp.val = 16 ∧ ∃ nnn, i = .call nnn := by
  constructor
  · rintro ⟨_, h⟩
    cases h with
    | call h => exact ⟨h, _, rfl⟩
  · rintro ⟨h, nnn, rfl⟩
    exact ⟨_, .call h⟩

theorem faults_stackUnderflow_iff : (∃ n, Faults s i .stackUnderflow n) ↔ s.sp.val = 0 ∧ i = .ret := by
  constructor
  · rintro ⟨_, h⟩
    cases h with
    | ret h => exact ⟨h, rfl⟩
  · rintro ⟨h, rfl⟩
    exact ⟨_, .ret h⟩

theorem faults_keyIndexOutOfRange_iff : (∃ n, Faults s i .keyIndexOutOfRange n) ↔
    ∃ x, (i = .skp x ∨ i = .sknp x) ∧ 0xF < (s.reg x).toNat := by
  constructor
  · rintro ⟨_, h⟩
    cases h with
    | skp h => exact ⟨_, .inl rfl, h⟩
    | sknp h => exact ⟨_, .inr rfl, h⟩
  · rintro ⟨x, rfl | rfl, h⟩
    · exact ⟨_, .skp h⟩
    · exact ⟨_, .sknp h⟩

/-! ### The information of each cause (R201) -/

theorem toNat_firstOutOfBounds (s : State) : s.firstOutOfBounds.toNat = max s.i.toNat 0x1000 := by
  have := s.i.isLt
  rw [State.firstOutOfBounds, BitVec.toNat_ofNat]
  exact Nat.mod_eq_of_lt (by omega)

theorem Faults.info_of_mem {c : FaultCause} {n : Word} (h : Faults s i c n)
    (hc : c = .memReadOutOfBounds ∨ c = .memWriteOutOfBounds) : n.toNat = max s.i.toNat 0x1000 := by
  cases h with
  | drw | ldVxMem | ldB | ldMemVx => exact toNat_firstOutOfBounds s
  | call | ret | skp | sknp => simp at hc

theorem Faults.info_of_stackOverflow {n : Word} (h : Faults s i .stackOverflow n) : n = 16 := by
  cases h; rfl

theorem Faults.info_of_stackUnderflow {n : Word} (h : Faults s i .stackUnderflow n) : n = 0 := by
  cases h; rfl

theorem Faults.info_of_key {n : Word} (h : Faults s i .keyIndexOutOfRange n) {x : Reg}
    (hi : i = .skp x ∨ i = .sknp x) : n.toNat = (s.reg x).toNat := by
  obtain rfl | rfl := hi
  · cases h; exact toNat_zextByte _
  · cases h; exact toNat_zextByte _

end

/-- Settles O13: each access is one of the faults, whose state `FaultState` writes out. -/
theorem outOfBoundsAccessesFault : Obligations.OutOfBoundsAccessesFault := by
  intro s x y n
  exact ⟨fun hn h => exec_of_faults (.drw hn h), fun h => exec_of_faults (.ldVxMem h),
    fun h => exec_of_faults (.ldMemVx h), fun h => exec_of_faults (.ldB h)⟩

/-! ### Who writes what -/

/-- Settles O20: the effects that move PC, I, DT or ST are those of the listed instructions. -/
theorem writersOfPcIndexAndTimers : Obligations.WritersOfPcIndexAndTimers := by
  intro i s t hexec
  refine ⟨?pc, ?index, ?dt, ?st⟩
  case pc =>
    cases Effect.of_exec hexec with
    | fault h => exact .inr (.inl h.cause_ne_none)
    | jump a h =>
      obtain ⟨nnn, rfl | rfl⟩ := h <;> simp
    | skip a h =>
      obtain ⟨x, kk, rfl | rfl⟩ | ⟨x, y, rfl | rfl⟩ | ⟨x, rfl | rfl⟩ := h <;> simp
    | wait x => simp
    | call nnn => simp
    | ret => simp
    | _ => exact .inl rfl
  case index =>
    cases Effect.of_exec hexec with
    | index a h => exact .inr h
    | _ => exact .inl rfl
  case dt =>
    cases Effect.of_exec hexec with
    | delay x b => exact .inr ⟨x, rfl⟩
    | _ => exact .inl rfl
  case st =>
    cases Effect.of_exec hexec with
    | sound x b => exact .inr ⟨x, rfl⟩
    | _ => exact .inl rfl

/-- Settles O21: likewise for memory, the stack, SP and the framebuffer; no effect writes the keypad or Opcode. -/
theorem writersOfTheStores : Obligations.WritersOfTheStores := by
  intro i s t hexec
  refine ⟨?mem, ?stack, ?sp, ?fb, ?key, ?opcode⟩
  case mem =>
    cases Effect.of_exec hexec with
    | store a bs h => exact .inr h
    | _ => exact .inl fun _ => rfl
  case stack =>
    cases Effect.of_exec hexec with
    | call nnn => exact .inr ⟨nnn, rfl⟩
    | _ => exact .inl rfl
  case sp =>
    cases Effect.of_exec hexec with
    | ret => exact .inr (.inl rfl)
    | call nnn => exact .inr (.inr ⟨nnn, rfl⟩)
    | _ => exact .inl rfl
  case fb =>
    cases Effect.of_exec hexec with
    | cls => exact .inr (.inl rfl)
    | draw x y n => exact .inr (.inr ⟨x, y, n, rfl⟩)
    | _ => exact .inl rfl
  case key => cases Effect.of_exec hexec <;> rfl
  case opcode => cases Effect.of_exec hexec <;> rfl

/-- Settles O22: the effects that write registers are `regs`, which says so of VF, and the draw. -/
theorem writersOfTheFlagRegister : Obligations.WritersOfTheFlagRegister := by
  intro i s t hexec
  cases Effect.of_exec hexec with
  | regs v h => exact h
  | draw x y n => exact .inr (.inr (.inl ⟨x, y, n, rfl⟩))
  | _ => exact .inl rfl

/-! ### What no instruction reads -/

/-- `s` with other values in the fields that no instruction reads, but for `rnd`, which Cxkk reads. -/
def State.withUnread (s : State) (w : Word) (b : Byte) (cs : List Command) : State :=
  { s with opcode := w, rnd := b, commands := cs }

section
variable (s : State) (w : Word) (b : Byte) (cs : List Command)

theorem State.skipIf_withUnread (c : Bool) : (s.withUnread w b cs).skipIf c = (s.skipIf c).withUnread w b cs := by
  cases c with
  | false => rfl
  | true => rfl

theorem State.withIRange_withUnread (len : Nat) (c : FaultCause) {go : State → State}
    (h : go (s.withUnread w b cs) = (go s).withUnread w b cs) :
    (s.withUnread w b cs).withIRange len c go = (s.withIRange len c go).withUnread w b cs := by
  obtain ⟨hout, hlen, heq⟩ | ⟨hin, heq⟩ := s.withIRange_cases len c go
  · rw [heq]
    exact (s.withUnread w b cs).withIRange_out len c go hlen hout
  · rw [heq, ← h]
    exact (s.withUnread w b cs).withIRange_in len c go hin

theorem State.withKey_withUnread (x : Reg) {go go' : KeyId → State} (h : ∀ k, go' k = (go k).withUnread w b cs) :
    (s.withUnread w b cs).withKey x go' = (s.withKey x go).withUnread w b cs := by
  obtain ⟨hout, heq⟩ | ⟨k, hk, heq⟩ := s.withKey_cases x go
  · rw [heq]
    exact (s.withUnread w b cs).withKey_out x go' hout
  · rw [heq, ← h]
    exact (s.withUnread w b cs).withKey_in x go' k hk

/-- What a block read gives depends on the bytes alone. -/
theorem State.readBytes_congr {s t : State} : ∀ (n a : Nat), (∀ k, k < n → t.readByte (a + k) = s.readByte (a + k)) →
    t.readBytes a n = s.readBytes a n
  | 0, _, _ => rfl
  | n + 1, a, h => by
    refine congrArg₂ List.cons (h 0 (by omega)) (State.readBytes_congr n (a + 1) fun k hk => ?_)
    rw [show a + 1 + k = a + (k + 1) by omega]
    exact h (k + 1) (by omega)

theorem State.readBytes_withUnread (a n : Nat) : (s.withUnread w b cs).readBytes a n = s.readBytes a n :=
  State.readBytes_congr n a fun _ _ => rfl

theorem State.draw_withUnread (x y : Reg) (n : Fin 16) :
    (s.withUnread w b cs).draw x y n = (s.draw x y n).withUnread w b cs := by
  rw [State.draw, State.draw, show (s.withUnread w b cs).i = s.i from rfl, State.readBytes_withUnread]
  rfl

theorem State.setRegsFrom_withUnread : ∀ (bs : List Byte) (k : Nat) (s : State),
    State.setRegsFrom k bs (s.withUnread w b cs) = (State.setRegsFrom k bs s).withUnread w b cs
  | [], _, _ => rfl
  | c :: bs, k, s => by
    rw [State.setRegsFrom, State.setRegsFrom, ← State.setRegsFrom_withUnread bs]
    split <;> rfl

end

/-- Opcode, the host's commands and, but for Cxkk, `rnd` make no difference to an instruction (10_state.md R28, 00_scope.md
R7): only the operations with a check or a loop need their own rule. -/
theorem exec_withUnread {i : Instr} {s t : State} (w : Word) (b : Byte) (cs : List Command)
    (hrnd : (∀ x kk, i ≠ .rnd x kk) ∨ b = s.rnd) (h : exec i s = .next t) :
    exec i (s.withUnread w b cs) = .next (t.withUnread w b cs) := by
  cases i with
  | rnd x kk =>
    obtain hne | rfl := hrnd
    · exact absurd rfl (hne x kk)
    · cases h; rfl
  | seImm | sneImm | seReg | sneReg => cases h; exact congrArg _ (s.skipIf_withUnread w b cs _)
  | skp x => cases h; exact congrArg _ (s.withKey_withUnread w b cs x fun k => s.skipIf_withUnread w b cs _)
  | sknp x => cases h; exact congrArg _ (s.withKey_withUnread w b cs x fun k => s.skipIf_withUnread w b cs _)
  | drw x y n => cases h; exact congrArg _ (s.withIRange_withUnread w b cs _ _ (s.draw_withUnread w b cs x y n))
  | ldB | ldMemVx => cases h; exact congrArg _ (s.withIRange_withUnread w b cs _ _ rfl)
  | ldVxMem x =>
    cases h
    refine congrArg _ (s.withIRange_withUnread w b cs _ _ ?_)
    rw [show (s.withUnread w b cs).i = s.i from rfl, State.readBytes_withUnread, State.setRegsFrom_withUnread]
  | ret =>
    by_cases hsp : 0 < s.sp.val
    · cases (exec_ret_of_pos s hsp).symm.trans h
      exact exec_ret_of_pos (s.withUnread w b cs) hsp
    · cases (exec_ret_of_empty s (by omega)).symm.trans h
      exact exec_ret_of_empty (s.withUnread w b cs) (Nat.eq_zero_of_not_pos hsp)
  | call nnn =>
    by_cases hsp : s.sp.val < 16
    · cases (exec_call_of_lt s nnn hsp).symm.trans h
      exact exec_call_of_lt (s.withUnread w b cs) nnn hsp
    · have hfull : s.sp.val = 16 := by omega
      cases (exec_call_of_full s nnn hfull).symm.trans h
      exact exec_call_of_full (s.withUnread w b cs) nnn hfull
  | ldVxK x =>
    obtain ⟨hk, -⟩ | ⟨k, hk, -⟩ := s.lowestKey_cases
    · cases (exec_ldVxK_of_released x hk).symm.trans h
      exact exec_ldVxK_of_released (s := s.withUnread w b cs) x hk
    · cases (exec_ldVxK_of_pressed x hk).symm.trans h
      exact exec_ldVxK_of_pressed (s := s.withUnread w b cs) x hk
  | _ => cases h; rfl

theorem Effect.unread {i : Instr} {s t : State} (h : Effect s i t) :
    t.opcode = s.opcode ∧ t.rnd = s.rnd ∧ t.commands = s.commands := by
  cases h <;> exact ⟨rfl, rfl, rfl⟩

/-- Settles O23: Opcode is one of the fields that no instruction reads, and the others stay as they are. -/
theorem opcodeIsNeverRead : Obligations.OpcodeIsNeverRead := by
  intro i s t w h
  obtain ⟨-, hrnd, hcommands⟩ := (Effect.of_exec h).unread
  have hframe : t.withUnread w s.rnd s.commands = { t with opcode := w } := by
    rw [← hrnd, ← hcommands, State.withUnread]
  exact (exec_withUnread w s.rnd s.commands (.inr rfl) h).trans (congrArg _ hframe)

/-- Settles O24: so is `rnd`, for every instruction but Cxkk. -/
theorem randomByteIsReadOnlyByRnd : Obligations.RandomByteIsReadOnlyByRnd := by
  intro i s t b hi h
  obtain ⟨hopcode, -, hcommands⟩ := (Effect.of_exec h).unread
  have hframe : t.withUnread s.opcode b s.commands = { t with rnd := b } := by
    rw [← hopcode, ← hcommands, State.withUnread]
  exact (exec_withUnread s.opcode b s.commands (.inl hi) h).trans (congrArg _ hframe)

end Sys2Proof.Machine
end

section
/-!
PROOFS of the statements about STEP and about every step: completion, faults, the invariants, the ends of a run and the
host's sequences of commands (30_encoding.md R80 to R83, 60_exceptions.md, 70_reset_and_hazards.md R250).
-/

namespace Sys2Proof.Machine

/-! ### One STEP, by the stage it ends in (R80) -/

theorem stepWith_of_faulted (rnd : Byte) {s : State} (h : s.faultCause ≠ .none) : stepWith rnd s = .next s := by
  obtain ⟨-, hfetch⟩ | ⟨h', -⟩ | ⟨h', -⟩ := s.fetch_cases rnd
  · rw [stepWith, hfetch]
  · exact absurd h' h
  · exact absurd h' h

theorem stepWith_of_unfetchable (rnd : Byte) {s : State} (hcause : s.faultCause = .none) (hpc : 0xFFE < s.pc.toNat) :
    stepWith rnd s = .next (s.raiseAt s.pc .fetchOutOfBounds s.pc) := by
  obtain ⟨h, -⟩ | ⟨-, -, hfetch⟩ | ⟨-, h, -⟩ := s.fetch_cases rnd
  · exact absurd hcause h
  · rw [stepWith, hfetch]
  · omega

/-- A STEP that answers `t`: of a faulted core, with a fetch fault, or of the instruction at PC. -/
theorem stepWith_cases {rnd : Byte} {s t : State} (h : stepWith rnd s = .next t) :
    (s.faultCause ≠ .none ∧ t = s) ∨
    (s.faultCause = .none ∧ 0xFFE < s.pc.toNat ∧ t = s.raiseAt s.pc .fetchOutOfBounds s.pc) ∨
    (s.faultCause = .none ∧ s.pc.toNat ≤ 0xFFE ∧ exec s.currentInstr (s.afterFetch rnd) = .next t) := by
  by_cases hcause : s.faultCause = .none
  · by_cases hpc : s.pc.toNat ≤ 0xFFE
    · exact .inr (.inr ⟨hcause, hpc, (stepWith_of_fetchable rnd hcause hpc).symm.trans h⟩)
    · cases (stepWith_of_unfetchable rnd hcause (by omega)).symm.trans h
      exact .inr (.inl ⟨hcause, by omega, rfl⟩)
  · cases (stepWith_of_faulted rnd hcause).symm.trans h
    exact .inl ⟨hcause, rfl⟩

/-! ### Completion (60_exceptions.md R229) -/

theorem stepWith_completes (rnd : Byte) (s : State) : ∃ t, stepWith rnd s = .next t := by
  by_cases hcause : s.faultCause = .none
  · by_cases hpc : s.pc.toNat ≤ 0xFFE
    · obtain ⟨t, ht, -⟩ := exec_effect s.currentInstr (s.afterFetch rnd)
      exact ⟨t, (stepWith_of_fetchable rnd hcause hpc).trans ht⟩
    · exact ⟨_, stepWith_of_unfetchable rnd hcause (by omega)⟩
  · exact ⟨s, stepWith_of_faulted rnd hcause⟩

theorem runCommand_completes (c : Command) (s : State) : ∃ t, runCommand c s = .next t := by
  cases c with
  | step rnd => exact stepWith_completes rnd s
  | _ => exact ⟨_, rfl⟩

/-- Settles O9: no stage of a STEP and no other command ends in a stop, and a step is a command. -/
theorem everyCommandCompletes : Obligations.EveryCommandCompletes := by
  refine ⟨fun i s => ?exec, runCommand_completes, fun s => runCommand_completes _ _⟩
  case exec =>
    obtain ⟨t, ht, -⟩ := exec_effect i s
    exact ⟨t, ht⟩

/-! ### The induction step of an invariant, once for all invariants -/

/-- A property of the core that RESET, LOAD, TICK, SETKEY, a fetch fault and every instruction's effect keep, and that
the host's own data do not enter. -/
structure Kept (P : State → Prop) : Prop where
  host : ∀ s cs k, P s → P { s with commands := cs, hostIndex := k }
  reset : ∀ s, P s → P s.resetCommand
  load : ∀ s rom, P s → P (s.loadCommand rom)
  tick : ∀ s, P s → P s.tick
  setKey : ∀ s k p, P s → P (s.setKey k p)
  fetchFault : ∀ s, P s → P (s.raiseAt s.pc .fetchOutOfBounds s.pc)
  effect : ∀ s rnd i t, P s → s.pc.toNat ≤ 0xFFE → Effect (s.afterFetch rnd) i t → P t

theorem Kept.runCommand {P : State → Prop} (h : Kept P) {c : Command} {s t : State} (hs : P s)
    (hrun : runCommand c s = .next t) : P t := by
  cases c with
  | reset => cases hrun; exact h.reset s hs
  | load rom => cases hrun; exact h.load s rom hs
  | tick => cases hrun; exact h.tick s hs
  | setKey k p => cases hrun; exact h.setKey s k p hs
  | step rnd =>
    obtain ⟨-, rfl⟩ | ⟨-, -, rfl⟩ | ⟨-, hpc, hexec⟩ := stepWith_cases hrun
    · exact hs
    · exact h.fetchFault s hs
    · exact h.effect s rnd _ t hs hpc (Effect.of_exec hexec)

theorem Kept.step {P : State → Prop} (h : Kept P) {s t : State} (hs : P s) (hstep : step s = .next t) : P t := by
  obtain ⟨-, heq⟩ | ⟨c, cs, -, heq⟩ := step_cases s
  · exact h.runCommand (h.host s s.commands _ hs) (heq.symm.trans hstep)
  · exact h.runCommand (h.host s cs s.hostIndex hs) (heq.symm.trans hstep)

/-! ### The invariants -/

theorem memCanonical_resetCommand (s : State) : s.resetCommand.MemCanonical := rfl

theorem memCanonical_loadCommand (s : State) (rom : List Byte) : (s.loadCommand rom).MemCanonical :=
  State.writeBytes_memCanonical _ (memCanonical_resetCommand s) romBase (rom.take romMax)

theorem Effect.memCanonical {s t : State} {i : Instr} (h : Effect s i t) (hs : s.MemCanonical) : t.MemCanonical := by
  cases h with
  | store a bs => exact s.writeBytes_memCanonical hs a bs
  | _ => exact hs

theorem kept_memCanonical : Kept State.MemCanonical where
  host _ _ _ hs := hs
  reset s _ := memCanonical_resetCommand s
  load s rom _ := memCanonical_loadCommand s rom
  tick _ hs := hs
  setKey _ _ _ hs := hs
  fetchFault _ hs := hs
  effect _ _ _ _ hs _ h := h.memCanonical hs

/-- Settles O15: only a store and LOAD write memory, and writes keep the form. -/
theorem stepKeepsMemoryCanonical : Obligations.StepKeepsMemoryCanonical := fun _ _ => kept_memCanonical.step

theorem State.getElem_push_stack (s : State) (a : Word) (h : s.sp.val < 16) (j : Fin 16) :
    (s.push a h).stack[j] = if j.val = s.sp.val then a else s.stack[j] := by
  simp only [State.push_stack, Fin.getElem_fin, Vector.getElem_set, eq_comm]

/-- An instruction fetched at PC at most 0xFFE runs with PC from 2 to 0x1000. -/
theorem Effect.pcBounded {s t : State} {i : Instr} (h : Effect s i t) (hlo : 2 ≤ s.pc.toNat) (hhi : s.pc.toNat ≤ 0x1000)
    (hstack : ∀ j : Fin 16, s.stack[j].toNat ≤ 0x1000) : t.PcBounded := by
  have hback : (s.pc - 2).toNat ≤ 0x10FE := by bv_omega
  cases h with
  | fault h => exact ⟨hback, hstack⟩
  | wait => exact ⟨hback, hstack⟩
  | jump a _ ha => exact ⟨ha, hstack⟩
  | skip a _ ha =>
    refine ⟨?_, hstack⟩
    obtain rfl | rfl := ha
    · exact hhi.trans (by decide)
    · show (s.pc + 2).toNat ≤ 0x10FE
      bv_omega
  | call nnn hsp =>
    refine ⟨?_, fun j => ?_⟩
    · have := nnn.isLt
      rw [State.setPc_pc, toNat_zextAddr]
      omega
    · rw [State.setPc_stack, State.getElem_push_stack]
      split
      · exact hhi
      · exact hstack j
  | ret hsp => exact ⟨(hstack ⟨s.sp.val - 1, by omega⟩).trans (by decide), hstack⟩
  | _ => exact ⟨hhi.trans (by decide), hstack⟩

theorem State.resetCommand_pc (s : State) : s.resetCommand.pc = 0x0200 := rfl

theorem State.getElem_resetCommand_stack (s : State) (j : Fin 16) : s.resetCommand.stack[j] = 0x0000 := by
  show (Vector.replicate 16 (0x0000 : Word))[j.val] = 0x0000
  exact Vector.getElem_replicate _

theorem pcBounded_resetCommand (s : State) : s.resetCommand.PcBounded := by
  refine ⟨by rw [s.resetCommand_pc]; decide, fun j => ?_⟩
  rw [s.getElem_resetCommand_stack]
  decide

theorem kept_pcBounded : Kept State.PcBounded where
  host _ _ _ hs := hs
  reset s _ := pcBounded_resetCommand s
  load s _ _ := pcBounded_resetCommand s
  tick _ hs := hs
  setKey _ _ _ hs := hs
  fetchFault _ hs := hs
  effect s rnd _ _ hs hpc h := by
    have hnext : (s.pc + 2).toNat = s.pc.toNat + 2 := by bv_omega
    exact h.pcBounded (by rw [State.afterFetch_pc]; omega) (by rw [State.afterFetch_pc]; omega) hs.2

/-- Settles O16: an instruction starts with PC at most 0x1000, and every way it moves PC stays within 0x10FE. -/
theorem stepKeepsPcBounded : Obligations.StepKeepsPcBounded := fun _ _ => kept_pcBounded.step

theorem kept_recordConsistent : Kept State.RecordConsistent where
  host _ _ _ hs := hs
  reset _ _ := fun _ => ⟨rfl, rfl⟩
  load _ _ _ := fun _ => ⟨rfl, rfl⟩
  tick _ hs := hs
  setKey _ _ _ hs := hs
  fetchFault _ _ := fun h => FaultCause.noConfusion h
  effect s rnd i t hs _ h := by
    cases h with
    | fault h => exact fun hnone => absurd hnone h.cause_ne_none
    | _ => exact hs

/-- Settles O17: the record is written by faults, which name a cause, and cleared by RESET and LOAD. -/
theorem stepKeepsRecordConsistent : Obligations.StepKeepsRecordConsistent := fun _ _ => kept_recordConsistent.step

theorem kept_params (p : Params) : Kept fun s => s.params = p where
  host _ _ _ hs := hs
  reset _ hs := hs
  load _ _ hs := hs
  tick _ hs := hs
  setKey _ _ _ hs := hs
  fetchFault _ hs := hs
  effect s rnd i t hs _ h := by cases h <;> exact hs

/-- Settles O18: no command and no effect writes the parameters. -/
theorem stepKeepsParameters : Obligations.StepKeepsParameters := fun s _ => (kept_params s.params).step rfl

/-- Settles O14: RESET leaves an empty memory list, PC and stack within their bounds, and a zero record. -/
theorem resetMeetsTheInvariants : Obligations.ResetMeetsTheInvariants :=
  ⟨memCanonical_resetCommand State.reset, pcBounded_resetCommand State.reset, fun _ => ⟨rfl, rfl⟩⟩

/-! ### What a STEP runs -/

theorem step_of_named {s : State} {c : Command} {cs : List Command} (h : s.commands = c :: cs) :
    step s = runCommand c { s with commands := cs } := by
  obtain ⟨hnil, -⟩ | ⟨c', cs', hcs', heq⟩ := step_cases s
  · rw [hnil] at h
    cases h
  · cases h.symm.trans hcs'
    exact heq

theorem step_of_unnamed {s : State} (h : s.commands = []) :
    step s = runCommand (Config.freeCommand s.hostIndex) { s with hostIndex := s.hostIndex + 1 } := by
  obtain ⟨-, heq⟩ | ⟨c, cs, hcs, -⟩ := step_cases s
  · exact heq
  · rw [h] at hcs
    cases hcs

/-- Settles O7: a STEP of a fetchable core runs the instruction at PC after the fetch, and a step is the command taken. -/
theorem stepRunsTheDecodedInstruction : Obligations.StepRunsTheDecodedInstruction := by
  intro s i rnd hcause hpc hdecode
  have hi : s.currentInstr = i := congrArg Prod.fst (Except.ok.inj hdecode)
  refine ⟨?run, fun cs hcs => step_of_named hcs, step_of_unnamed⟩
  case run =>
    rw [stepWith_of_fetchable rnd hcause hpc, hi]
    rfl

/-! ### The placed word -/

theorem State.toNat_fetchablePc_le (s : State) : s.fetchablePc.toNat ≤ 0xFFE := by
  unfold State.fetchablePc
  split
  · assumption
  · decide

/-- The word stored at an address within memory is the word fetched there. -/
theorem State.wordAt_writeBytes_wordBytes {s : State} (hs : s.MemCanonical) {a : Nat} (ha : a ≤ 0xFFE) (w : Word) :
    (s.writeBytes a (wordBytes w)).wordAt a = w := by
  have hlen : a + (wordBytes w).length ≤ 4096 := by show a + 2 ≤ 4096; omega
  rw [State.wordAt, s.readByte_writeBytes hs _ _ _ hlen, s.readByte_writeBytes hs _ _ _ hlen]
  simp [wordBytes]

/-- The state in which the STEP after `placeWord` fetches. -/
def State.placed (s : State) (w : Word) : State := { s.placeWord w with commands := [] }

theorem State.wordAt_placed {s : State} (hs : s.MemCanonical) (w : Word) : (s.placed w).wordAt (s.placed w).pc.toNat = w :=
  State.wordAt_writeBytes_wordBytes hs s.toNat_fetchablePc_le w

theorem step_placeWord {s : State} (hs : s.MemCanonical) (w : Word) : step (s.placeWord w) =
    exec (decodeWord s.params.subDecode w) ((s.placed w).afterFetch (Config.freeRnd s.hostIndex)) := by
  have hrun : stepWith (Config.freeRnd s.hostIndex) (s.placed w) = _ :=
    stepWith_of_fetchable _ rfl s.toNat_fetchablePc_le
  rw [State.currentInstr, State.wordAt_placed hs] at hrun
  have hnamed : (s.placeWord w).commands = [.step (Config.freeRnd s.hostIndex)] := rfl
  exact (step_of_named hnamed).trans hrun

/-- Settles O8: the STEP that `withFetchWord` names fetches the word it stored. -/
theorem withFetchWordRunsThatWord : Obligations.WithFetchWordRunsThatWord := by
  intro s w hs hw
  refine ⟨(s.placed (BitVec.ofNat 16 w)).afterFetch (Config.freeRnd s.hostIndex), ?run, s.wordAt_placed hs _, rfl, rfl, rfl,
    rfl, rfl, rfl, rfl, rfl, rfl, fun hpc => ?pc⟩
  case run =>
    rw [State.withFetchWord, Nat.mod_eq_of_lt (show w < 2 ^ 16 from hw)]
    exact step_placeWord hs _
  case pc =>
    show s.fetchablePc + 2 = s.pc + 2
    rw [State.fetchablePc, if_pos hpc]

/-! ### The faults of a STEP -/

/-- Settles O10: a PC above 0xFFE is the fetch's fault and no other; else the cause is the instruction's. -/
theorem faultsAreRaisedExactlyInTheirCases : Obligations.FaultsAreRaisedExactlyInTheirCases := by
  intro rnd s t hcause hstep
  obtain ⟨hne, -⟩ | ⟨-, hpc, rfl⟩ | ⟨-, hpc, hexec⟩ := stepWith_cases hstep
  · exact absurd hcause hne
  · simp [hpc, Nat.not_le.mpr hpc]
  · have hcause' : (s.afterFetch rnd).faultCause = .none := hcause
    have hiff {c : FaultCause} (hc : c ≠ .none) : t.faultCause = c ↔ ∃ n, Faults (s.afterFetch rnd) s.currentInstr c n :=
      faultCause_eq_iff hcause' hexec hc
    have hinfo {c : FaultCause} (hc : c ≠ .none) (h : t.faultCause = c) :
        Faults (s.afterFetch rnd) s.currentInstr c t.faultInfo := faults_of_faultCause_eq hcause' hexec hc h
    have hfetch : t.faultCause ≠ .fetchOutOfBounds := fun h =>
      faults_fetchOutOfBounds_iff.mp ((hiff (by decide)).mp h)
    refine ⟨⟨fun h => absurd h hfetch, fun h => by omega⟩, ?read, ?write, ?overflow, ?underflow, ?key,
      fun h => absurd h hfetch, ?infoMem, fun h => (hinfo (by decide) h).info_of_stackOverflow,
      fun h => (hinfo (by decide) h).info_of_stackUnderflow, fun x h => (hinfo (by decide) h).info_of_key⟩
    case read => exact (hiff (by decide)).trans (faults_memReadOutOfBounds_iff.trans (and_iff_right hpc).symm)
    case write => exact (hiff (by decide)).trans (faults_memWriteOutOfBounds_iff.trans (and_iff_right hpc).symm)
    case overflow => exact (hiff (by decide)).trans (faults_stackOverflow_iff.trans (and_iff_right hpc).symm)
    case underflow => exact (hiff (by decide)).trans (faults_stackUnderflow_iff.trans (and_iff_right hpc).symm)
    case key => exact (hiff (by decide)).trans (faults_keyIndexOutOfRange_iff.trans (and_iff_right hpc).symm)
    case infoMem =>
      rintro (h | h)
      · exact (hinfo (by decide) h).info_of_mem (.inl rfl)
      · exact (hinfo (by decide) h).info_of_mem (.inr rfl)

/-- Settles O11: a faulting instruction only writes the record and puts PC back, from the state after the fetch. -/
theorem faultsArePrecise : Obligations.FaultsArePrecise := by
  intro rnd s t hcause hstep ht
  obtain ⟨hne, -⟩ | ⟨-, hpc, rfl⟩ | ⟨-, hpc, hexec⟩ := stepWith_cases hstep
  · exact absurd hcause hne
  · exact ⟨rfl, rfl, fun h => by omega, fun _ => rfl, fun _ => rfl, rfl⟩
  · obtain ⟨-, hframe⟩ := faults_of_faultCause_ne_none (s := s.afterFetch rnd) hcause hexec ht
    have hback : (s.afterFetch rnd).pc - 2 = s.pc := s.afterFetch_pc_sub_two rnd
    rw [State.raiseFault, hback] at hframe
    generalize t.faultCause = c, t.faultInfo = n at hframe
    subst hframe
    exact ⟨rfl, rfl, fun _ => rfl, fun h => by omega, fun _ => rfl, rfl⟩

/-- Settles O12: a STEP of a faulted core ends where it began, and the other commands do not look at the record. -/
theorem faultedCoreTakesOnlyOtherCommands : Obligations.FaultedCoreTakesOnlyOtherCommands := by
  intro s hs
  refine ⟨fun rnd => stepWith_of_faulted rnd hs, ⟨s.tick, rfl, toNat_tickTimer s.dt, toNat_tickTimer s.st, rfl⟩,
    fun k p => ⟨s.setKey k p, rfl, ?_, rfl⟩, ⟨_, rfl, rfl⟩, fun rom => ⟨_, rfl, rfl⟩⟩
  rw [State.keyDown_setKey, if_pos rfl]

/-! ### The ends of a run (70_reset_and_hazards.md R250) -/

/-- A run that has ended, by its end: a faulted core, or a fetchable one at a self-jump or a wait. -/
theorem State.runStatus_cases {s : State} (h : s.runStatus ≠ .running) :
    (s.runStatus = .faulted ∧ s.faultCause ≠ .none) ∨
    (s.runStatus ≠ .faulted ∧ s.faultCause = .none ∧ s.pc.toNat ≤ 0xFFE ∧
      ((∃ nnn, s.currentInstr = .jp nnn ∧ zextAddr nnn = s.pc) ∨
        ∃ x, s.currentInstr = .ldVxK x ∧ s.lowestKey = none)) := by
  unfold State.runStatus State.faulted at *
  split at h
  case isTrue hfault => exact .inl ⟨if_pos hfault, of_decide_eq_true hfault⟩
  case isFalse hfault =>
    have hcause : s.faultCause = .none := not_not.mp (mt decide_eq_true hfault)
    split at h
    case isTrue => exact absurd rfl h
    case isFalse hpc =>
      refine .inr ⟨?_, hcause, by omega, ?_⟩
      · rw [if_neg hfault, if_neg hpc]
        split
        · split <;> decide
        · split <;> decide
        · decide
      · split at h
        · next nnn hi => exact .inl ⟨nnn, hi, of_not_not fun htarget => h (if_neg htarget)⟩
        · next x hi => exact .inr ⟨x, hi, of_not_not fun hkey => h (if_neg hkey)⟩
        · exact absurd rfl h

/-- Both fetchable ends put PC back where the STEP found it. -/
theorem stepWith_of_ended (rnd : Byte) {s : State} (hcause : s.faultCause = .none) (hpc : s.pc.toNat ≤ 0xFFE)
    (hend : (∃ nnn, s.currentInstr = .jp nnn ∧ zextAddr nnn = s.pc) ∨
      ∃ x, s.currentInstr = .ldVxK x ∧ s.lowestKey = none) :
    stepWith rnd s = .next ((s.afterFetch rnd).setPc s.pc) := by
  rw [stepWith_of_fetchable rnd hcause hpc]
  obtain ⟨nnn, hi, htarget⟩ | ⟨x, hi, hkey⟩ := hend
  · rw [hi, exec_jp, htarget]
  · rw [hi, exec_ldVxK_of_released x ((s.afterFetch_lowestKey rnd).trans hkey), State.afterFetch_pc_sub_two]

/-- Settles O55: a faulted core takes no STEP, and at the other two ends only the fetch's writes of Opcode and `rnd` remain,
on which the end does not depend. -/
theorem endsOfARunAreStable : Obligations.EndsOfARunAreStable := by
  intro rnd s t hend hstep
  obtain ⟨hfaulted, hcause⟩ | ⟨hnot, hcause, hpc, hinstr⟩ := State.runStatus_cases hend
  · cases (stepWith_of_faulted rnd hcause).symm.trans hstep
    exact ⟨rfl, rfl, fun _ => rfl, fun h => absurd hfaulted h⟩
  · cases (stepWith_of_ended rnd hcause hpc hinstr).symm.trans hstep
    exact ⟨rfl, rfl, fun h => absurd h hnot, fun _ => rfl⟩

/-! ### The host's sequences of commands (60_exceptions.md R230) -/

theorem stepWith_commands {rnd : Byte} {s t : State} (cs : List Command) (h : stepWith rnd s = .next t) :
    stepWith rnd { s with commands := cs } = .next { t with commands := cs } := by
  obtain ⟨hcause, rfl⟩ | ⟨hcause, hpc, rfl⟩ | ⟨hcause, hpc, hexec⟩ := stepWith_cases h
  · exact stepWith_of_faulted rnd hcause
  · exact stepWith_of_unfetchable rnd hcause hpc
  · obtain ⟨hopcode, hrnd, -⟩ := (Effect.of_exec hexec).unread
    have hframe : t.withUnread (s.afterFetch rnd).opcode (s.afterFetch rnd).rnd cs = { t with commands := cs } := by
      rw [← hopcode, ← hrnd, State.withUnread]
    exact (stepWith_of_fetchable rnd (s := { s with commands := cs }) hcause hpc).trans
      ((exec_withUnread (s.afterFetch rnd).opcode _ cs (.inr rfl) hexec).trans (congrArg _ hframe))

/-- No command looks at the commands the host will issue after it. -/
theorem runCommand_commands {c : Command} {s t : State} (cs : List Command) (h : runCommand c s = .next t) :
    runCommand c { s with commands := cs } = .next { t with commands := cs } := by
  cases c with
  | step rnd => exact stepWith_commands cs h
  | _ => cases h; rfl

theorem runCommands_eq_stepTimes : ∀ (cs : List Command) (s : State), ∃ t, runCommands cs s = .next t ∧
    stepTimes cs.length { s with commands := cs } = .next { t with commands := [] }
  | [], s => ⟨s, rfl, rfl⟩
  | c :: cs, s => by
    obtain ⟨t, ht⟩ := runCommand_completes c s
    obtain ⟨u, hu, hsteps⟩ := runCommands_eq_stepTimes cs t
    have hstep : step { s with commands := c :: cs } = .next { t with commands := cs } :=
      (step_of_named (s := { s with commands := c :: cs }) rfl).trans (runCommand_commands (s := s) cs ht)
    exact ⟨u, (runCommands_cons ht).trans hu, (stepTimes_succ hstep).trans hsteps⟩

/-- Settles O56: a step takes the head of the named commands, so as many steps as commands run them in their order. -/
theorem anySequenceOfCommandsIsPossible : Obligations.AnySequenceOfCommandsIsPossible :=
  ⟨fun _ _ _ => step_of_named, fun _ => step_of_unnamed, fun s cs => runCommands_eq_stepTimes cs s⟩

end Sys2Proof.Machine
end

section
/-!
PROOFS of the register instructions that write a flag (43_alu.md R137 to R142). All five are `flagThenResult`, so one frame
lemma and one rule for what it leaves in the registers serve them all.
-/

namespace Sys2Proof.Machine

/-! ### The flag-then-result order -/

section
variable (s : State) (f : Byte) (x : Reg) (r : State → Byte)

theorem State.frameV_flagThenResult : FrameV [x, 15] s (s.flagThenResult f x r) := by
  refine ⟨fun z hz => ?_, fun _ => rfl, rfl⟩
  have hx : z ≠ x := List.ne_of_not_mem_cons hz
  have hF : z ≠ 15 := List.ne_of_not_mem_cons (List.not_mem_of_not_mem_cons hz)
  rw [State.reg_flagThenResult, if_neg hx, if_neg hF]

/-- The destination holds the result, VF itself included. -/
theorem State.flagThenResult_reg_self : (s.flagThenResult f x r).reg x = r (s.setReg regF f) := by
  rw [State.reg_flagThenResult, if_pos rfl]

theorem State.flagThenResult_reg_flag (hx : x ≠ 15) : (s.flagThenResult f x r).reg 15 = f := by
  rw [State.reg_flagThenResult, if_neg hx.symm, if_pos rfl]

end

/-- An operand read after the flag is written. -/
theorem State.reg_setFlag_ne (s : State) (f : Byte) {x : Reg} (hx : x ≠ 15) : (s.setReg regF f).reg x = s.reg x := by
  rw [State.reg_setReg, if_neg hx]

/-! ### The flags and the results as numbers -/

@[simp] theorem toNat_flagByte (b : Bool) : (flagByte b).toNat = if b then 1 else 0 := by
  cases b with
  | false => rfl
  | true => rfl

theorem carryFlag_eq (a b : Byte) : carryFlag a b = if 255 < a.toNat + b.toNat then 1 else 0 := by
  simp only [carryFlag, flagByte, decide_eq_true_eq]

theorem toNat_noBorrowFlag (a b : Byte) : (noBorrowFlag a b).toNat = if b.toNat < a.toNat then 1 else 0 := by
  simp only [noBorrowFlag, toNat_flagByte, decide_eq_true_eq]

theorem toNat_lowBitFlag (a : Byte) : (lowBitFlag a).toNat = a.toNat % 2 := by
  rw [lowBitFlag, BitVec.toNat_ofNat]
  omega

theorem toNat_highBitFlag (a : Byte) : (highBitFlag a).toNat = a.toNat / 128 := by
  have := a.isLt
  rw [highBitFlag, BitVec.toNat_ofNat]
  omega

theorem toNat_sub_byte (a b : Byte) : (a - b).toNat = (256 + a.toNat - b.toNat) % 256 := by
  have := b.isLt
  rw [BitVec.toNat_sub]
  congr 1
  omega

theorem toNat_shiftRight_one (a : Byte) : (a >>> 1).toNat = a.toNat / 2 := by
  rw [BitVec.toNat_ushiftRight, Nat.shiftRight_eq_div_pow, pow_one]

theorem toNat_shiftLeft_one (a : Byte) : (a <<< 1).toNat = a.toNat * 2 % 256 := by
  rw [BitVec.toNat_shiftLeft, Nat.shiftLeft_eq, pow_one]

/-- Both subtractions: an operand that is VF is read as the flag (R137). -/
theorem State.toNat_flagThenSub_reg (s : State) (f : Byte) (x p q : Reg) :
    ((s.flagThenResult f x (fun t => t.reg p - t.reg q)).reg x).toNat =
      (256 + (if p = 15 then f.toNat else (s.reg p).toNat) - (if q = 15 then f.toNat else (s.reg q).toNat)) % 256 := by
  rw [State.flagThenResult_reg_self, toNat_sub_byte, State.reg_setReg, State.reg_setReg, apply_ite BitVec.toNat,
    apply_ite BitVec.toNat]

/-! ### What each instruction answers -/

section
variable (s : State) (x y : Reg)

theorem exec_addReg : exec (.addReg x y) s =
    .next (s.flagThenResult (carryFlag (s.reg x) (s.reg y)) x (fun _ => s.reg x + s.reg y)) := rfl

theorem exec_subReg : exec (.subReg x y) s =
    .next (s.flagThenResult (noBorrowFlag (s.reg x) (s.reg y)) x (fun t => t.reg x - t.reg y)) := rfl

theorem exec_subnReg : exec (.subnReg x y) s =
    .next (s.flagThenResult (noBorrowFlag (s.reg y) (s.reg x)) x (fun t => t.reg y - t.reg x)) := rfl

theorem exec_shrReg : exec (.shrReg x y) s =
    .next (s.flagThenResult (lowBitFlag (s.reg x)) x (fun t => t.reg x >>> 1)) := rfl

theorem exec_shlReg : exec (.shlReg x y) s =
    .next (s.flagThenResult (highBitFlag (s.reg x)) x (fun t => t.reg x <<< 1)) := rfl

end

/-! ### The obligations -/

/-- Settles O28: the sum does not read the flag, so it is the old registers' even with x or y = 0xF. -/
theorem addRegistersWithCarry : Obligations.AddRegistersWithCarry := by
  intro s x y
  refine ⟨_, exec_addReg s x y, ?sum, fun hx => ?carry, s.frameV_flagThenResult _ x _⟩
  case sum => rw [State.flagThenResult_reg_self, BitVec.toNat_add]
  case carry => rw [State.flagThenResult_reg_flag _ _ _ _ hx, carryFlag_eq]

/-- Settles O29: the difference is that of the registers after the flag is written. -/
theorem subtractWithNoBorrowFlag : Obligations.SubtractWithNoBorrowFlag := by
  intro s x y f hf
  rw [← toNat_noBorrowFlag] at hf
  subst hf
  refine ⟨_, exec_subReg s x y, s.frameV_flagThenResult _ x _, fun hx => ?flag, fun hx hy => ?plain, fun hx hy => ?xIsF,
    fun hx hy => ?yIsF, fun hx hy => ?bothF⟩
  case flag => rw [State.flagThenResult_reg_flag _ _ _ _ hx]
  case plain => rw [State.toNat_flagThenSub_reg, if_neg hx, if_neg hy]
  case xIsF => rw [← hx, State.toNat_flagThenSub_reg, if_pos hx, if_neg hy]
  case yIsF => rw [State.toNat_flagThenSub_reg, if_neg hx, if_pos hy]
  case bothF => rw [← hx, hy.trans hx.symm, State.flagThenResult_reg_self, BitVec.sub_self]; rfl

/-- Settles O30: as for SUB, with the operands exchanged. -/
theorem reverseSubtractWithNoBorrowFlag : Obligations.ReverseSubtractWithNoBorrowFlag := by
  intro s x y f hf
  rw [← toNat_noBorrowFlag] at hf
  subst hf
  refine ⟨_, exec_subnReg s x y, s.frameV_flagThenResult _ x _, fun hx => ?flag, fun hx hy => ?plain, fun hx hy => ?xIsF,
    fun hx hy => ?yIsF, fun hx hy => ?bothF⟩
  case flag => rw [State.flagThenResult_reg_flag _ _ _ _ hx]
  case plain => rw [State.toNat_flagThenSub_reg, if_neg hy, if_neg hx]
  case xIsF => rw [← hx, State.toNat_flagThenSub_reg, if_neg hy, if_pos hx]
  case yIsF => rw [State.toNat_flagThenSub_reg, if_pos hy, if_neg hx]
  case bothF => rw [← hx, hy.trans hx.symm, State.flagThenResult_reg_self, BitVec.sub_self]; rfl

/-- Settles O31: with x = 0xF the shift reads the bit just shifted out. -/
theorem shiftsByOne : Obligations.ShiftsByOne := by
  intro s x y
  refine ⟨⟨_, exec_shrReg s x y, s.frameV_flagThenResult _ x _, fun hx => ⟨?shr, ?shrFlag⟩, fun hx => ?shrF⟩,
    ⟨_, exec_shlReg s x y, s.frameV_flagThenResult _ x _, fun hx => ⟨?shl, ?shlFlag⟩, fun hx => ?shlF⟩⟩
  case shr => rw [State.flagThenResult_reg_self, s.reg_setFlag_ne _ hx, toNat_shiftRight_one]
  case shrFlag => rw [State.flagThenResult_reg_flag _ _ _ _ hx, toNat_lowBitFlag]
  case shrF =>
    subst hx
    refine BitVec.eq_of_toNat_eq ?_
    rw [State.flagThenResult_reg_self, s.reg_setReg_self, toNat_shiftRight_one, toNat_lowBitFlag]
    exact Nat.div_eq_of_lt (Nat.mod_lt _ (by decide))
  case shl => rw [State.flagThenResult_reg_self, s.reg_setFlag_ne _ hx, toNat_shiftLeft_one]
  case shlFlag => rw [State.flagThenResult_reg_flag _ _ _ _ hx, toNat_highBitFlag]
  case shlF =>
    subst hx
    have := (s.reg 15).isLt
    rw [State.flagThenResult_reg_self, s.reg_setReg_self, toNat_shiftLeft_one, toNat_highBitFlag]
    omega

end Sys2Proof.Machine
end

section
/-!
PROOFS of the subroutine instructions, the key skips and the instructions that access memory through I (42_flow.md R110,
R112; 45_keypad_timers.md R180, R181; 44_index_memory.md R163 to R165).
-/

namespace Sys2Proof.Machine

/-! ### CALL and RET -/

/-- Settles O39: below SP = 16 the next state is a push and a jump, at 16 the fault. -/
theorem callPushesTheReturnAddress : Obligations.CallPushesTheReturnAddress := by
  intro s nnn
  refine ⟨fun hsp => ?push, fun hsp => exec_call_of_full s nnn hsp⟩
  case push =>
    exact ⟨_, exec_call_of_lt s nnn hsp, toNat_zextAddr nnn, rfl, s.getElem_push_stack s.pc hsp, fun _ => rfl, fun _ => rfl,
      rfl⟩

theorem State.stackTop_of_sp {s : State} {j : Fin 16} (hsp : s.sp.val = j.val + 1) (h : 0 < s.sp.val) :
    s.stackTop h = s.stack[j] := by
  simp only [State.stackTop, Fin.getElem_fin, hsp, Nat.add_sub_cancel]

theorem State.pop_sp_val {s : State} {j : Fin 16} (hsp : s.sp.val = j.val + 1) : s.pop.sp.val = j.val := by
  show s.sp.val - 1 = j.val
  omega

/-- RET with SP = j + 1 (R110). -/
theorem exec_ret_of_sp {s : State} {j : Fin 16} (hsp : s.sp.val = j.val + 1) :
    exec .ret s = .next (s.pop.setPc s.stack[j]) := by
  have hpos : 0 < s.sp.val := by omega
  rw [exec_ret_of_pos s hpos, State.stackTop_of_sp hsp]

/-- Settles O40: above SP = 0 the next state is a pop and a jump to the entry popped, at 0 the fault. -/
theorem retPopsTheReturnAddress : Obligations.RetPopsTheReturnAddress := by
  intro s
  refine ⟨fun j hsp => ?pop, fun hsp => exec_ret_of_empty s hsp⟩
  case pop =>
    exact ⟨_, exec_ret_of_sp hsp, State.pop_sp_val hsp, rfl, fun _ => rfl, fun _ => rfl, rfl⟩

/-- Settles O41: the entry that RET pops is the one that CALL pushed. -/
theorem retUndoesCall : Obligations.RetUndoesCall := by
  intro s t u nnn j hsp hcall husp hentry
  have hlt : s.sp.val < 16 := by omega
  cases (exec_call_of_lt s nnn hlt).symm.trans hcall
  have husp' : u.sp.val = j.val + 1 := by rw [husp, ← hsp]; rfl
  refine ⟨_, exec_ret_of_sp husp', ?pc, ?sp⟩
  case pc => rw [State.setPc_pc, hentry, State.setPc_stack, State.getElem_push_stack, if_pos hsp.symm]
  case sp => exact Fin.ext ((State.pop_sp_val husp').trans hsp.symm)

/-! ### SKP and SKNP -/

theorem ofNat_toNat_eq_zextByte (b : Byte) : BitVec.ofNat 16 b.toNat = zextByte b := by
  refine BitVec.eq_of_toNat_eq ?_
  rw [toNat_zextByte, BitVec.toNat_ofNat]
  omega

/-- Settles O43: a key number makes both a skip, on the key's level and on its negation; above 0xF both fault. -/
theorem keySkips : Obligations.KeySkips := by
  intro s x
  refine ⟨fun k hk => ⟨⟨s.skipIf (s.keyDown k), ?skp, s.skipIf_pc _, s.framePc_skipIf _⟩,
    ⟨s.skipIf (!s.keyDown k), ?sknp, ?sknpPc, s.framePc_skipIf _⟩⟩, fun h => ?out⟩
  case skp => rw [exec_skp, s.withKey_in x _ k hk]
  case sknp => rw [exec_sknp, s.withKey_in x _ k hk]
  case sknpPc => rw [State.skipIf_pc]; cases s.keyDown k <;> rfl
  case out =>
    rw [ofNat_toNat_eq_zextByte]
    exact ⟨exec_of_faults (.skp h), exec_of_faults (.sknp h)⟩

/-! ### The stores -/

section
variable (s : State) (x : Reg)

theorem exec_ldB_of_in (h : s.i.toNat + 2 ≤ 0xFFF) :
    exec (.ldB x) s = .next (s.writeBytes s.i.toNat (bcdDigits (s.reg x))) := by
  rw [exec_ldB, s.withIRange_in _ _ _ (by omega)]

theorem exec_ldMemVx_of_in (h : s.i.toNat + x.val ≤ 0xFFF) :
    exec (.ldMemVx x) s = .next (s.writeBytes s.i.toNat (s.regsUpTo x)) := by
  rw [exec_ldMemVx, s.withIRange_in _ _ _ (by omega)]

theorem exec_ldVxMem_of_in (h : s.i.toNat + x.val ≤ 0xFFF) : exec (.ldVxMem x) s =
    .next (State.setRegsFrom 0 (s.readBytes s.i.toNat (x.val + 1)) s) := by
  rw [exec_ldVxMem, s.withIRange_in _ _ _ (by omega)]

end

section
variable (s : State) (base : Nat) (bs : List Byte)

/-- Byte `k` of a store. -/
theorem State.byteStored_of_getElem? {k : Nat} {b : Byte} (h : bs[k]? = some b) : s.byteStored base bs (base + k) = b := by
  have hk : k < bs.length := (List.getElem?_eq_some_iff.mp h).1
  rw [State.byteStored, if_pos (by omega), Nat.add_sub_cancel_left, h, Option.getD_some]

theorem State.byteStored_of_outside {a : Nat} (h : a < base ∨ base + bs.length ≤ a) :
    s.byteStored base bs a = s.readByte a := by
  rw [State.byteStored, if_neg (by omega)]

end

theorem toNat_ofNat_byte {n : Nat} (h : n < 256) : (BitVec.ofNat 8 n).toNat = n := by
  rw [BitVec.toNat_ofNat, Nat.mod_eq_of_lt h]

/-- Settles O34: the three bytes stored are the digits. -/
theorem storesDecimalDigits : Obligations.StoresDecimalDigits := by
  intro s x hs hi
  have hx := (s.reg x).isLt
  have hread (a : Nat) : (s.writeBytes s.i.toNat (bcdDigits (s.reg x))).readByte a = _ :=
    s.readByte_writeBytes_byteStored hs s.i.toNat a _ (by rw [bcdDigits_length]; omega)
  have hdigit (k : Nat) {b : Byte} (hk : (bcdDigits (s.reg x))[k]? = some b) :=
    (hread (s.i.toNat + k)).trans (s.byteStored_of_getElem? _ _ hk)
  refine ⟨_, exec_ldB_of_in s x hi, ?hundreds, ?tens, ?ones, fun a ha => ?others, rfl⟩
  case hundreds => exact (congrArg BitVec.toNat (hdigit 0 rfl)).trans (toNat_ofNat_byte (by omega))
  case tens => exact (congrArg BitVec.toNat (hdigit 1 rfl)).trans (toNat_ofNat_byte (by omega))
  case ones => exact (congrArg BitVec.toNat (hdigit 2 rfl)).trans (toNat_ofNat_byte (by omega))
  case others => rw [hread, State.byteStored_of_outside _ _ _ (by rw [bcdDigits_length]; omega)]

/-- Settles O35: the bytes stored are V0..Vx. -/
theorem storesRegisters : Obligations.StoresRegisters := by
  intro s x hs hi
  have hread (a : Nat) : (s.writeBytes s.i.toNat (s.regsUpTo x)).readByte a = _ :=
    s.readByte_writeBytes_byteStored hs s.i.toNat a _ (by rw [State.regsUpTo_length]; omega)
  refine ⟨_, exec_ldMemVx_of_in s x hi, fun z hz => ?stored, fun a ha => ?others, rfl⟩
  case stored => rw [hread, State.byteStored_of_getElem? _ _ _ (s.regsUpTo_getElem? x z hz)]
  case others => rw [hread, State.byteStored_of_outside _ _ _ (by rw [State.regsUpTo_length]; omega)]

/-- Settles O36: register z of the block loaded is the byte at I + z. -/
theorem loadsRegisters : Obligations.LoadsRegisters := by
  intro s x hi
  refine ⟨_, exec_ldVxMem_of_in s x hi, fun z hz => ?loaded, fun z hz => ?higher, fun a => ?mem,
    State.setRegsFrom_frame _ _ _⟩
  case loaded =>
    have hz : z.val ≤ x.val := hz
    rw [State.reg_setRegsFrom, State.readBytes_length, if_pos (by omega), s.readBytes_getElem? _ _ _ (by omega)]
    rfl
  case higher =>
    have hz : x.val < z.val := hz
    rw [State.reg_setRegsFrom, State.readBytes_length, if_neg (by omega)]
  case mem =>
    rw [State.setRegsFrom_frame]
    rfl

/-- Both stores, by the bytes they store. -/
theorem exec_store {s : State} {x : Reg} {i : Instr} {bs : List Byte}
    (hi : (i = .ldB x ∧ bs = bcdDigits (s.reg x)) ∨ (i = .ldMemVx x ∧ bs = s.regsUpTo x))
    (hlen : s.i.toNat + bs.length ≤ 0x1000) : exec i s = .next (s.writeBytes s.i.toNat bs) := by
  obtain ⟨rfl, rfl⟩ | ⟨rfl, rfl⟩ := hi
  · rw [bcdDigits_length] at hlen
    exact exec_ldB_of_in s x (by omega)
  · rw [State.regsUpTo_length] at hlen
    exact exec_ldMemVx_of_in s x (by omega)

/-- The word at any address after a store. -/
theorem State.wordAt_writeBytes {s : State} (hs : s.MemCanonical) {base : Nat} {bs : List Byte}
    (hlen : base + bs.length ≤ 0x1000) (a : Nat) :
    (s.writeBytes base bs).wordAt a = joinBytes (s.byteStored base bs a) (s.byteStored base bs (a + 1)) := by
  rw [State.wordAt, s.readByte_writeBytes_byteStored hs base a bs hlen,
    s.readByte_writeBytes_byteStored hs base (a + 1) bs hlen]

/-- Settles O37: the word at each address joins the bytes that the store left there, and the next STEP fetches one. -/
theorem storesAreSeenByTheNextFetch : Obligations.StoresAreSeenByTheNextFetch := by
  intro s x i bs hs hi hlen
  refine ⟨_, exec_store hi hlen, fun a => ?word, fun rnd hcause hpc => ?fetch⟩
  case word => rw [State.wordAt_writeBytes hs hlen, joinBytes_toNat]
  case fetch =>
    have hrun := stepWith_of_fetchable rnd (s := s.writeBytes s.i.toNat bs) hcause hpc
    rwa [State.currentInstr, State.wordAt_writeBytes hs hlen] at hrun

end Sys2Proof.Machine
end

section
/-!
PROOFS of Dxyn (41_display.md R101, R103), over the bits of the sprite that memory holds at I.
-/

namespace Sys2Proof.Machine

/-! ### The sprite's bits -/

/-- The bit of the sprite of `DRW Vx, Vy, n` that falls on pixel (px, py). -/
def State.spriteBit (s : State) (x y : Reg) (n : Fin 16) (py : Fin 32) (px : Fin 64) : Bool :=
  spriteCovers ((s.reg x).toNat % 64) ((s.reg y).toNat % 32) (s.readBytes s.i.toNat n.val) py px

/-- A sprite read from memory, with its rows and columns as bounds and its bytes as reads. -/
theorem spriteCovers_readBytes (s : State) (a n x0 y0 : Nat) (y : Fin 32) (x : Fin 64) :
    spriteCovers x0 y0 (s.readBytes a n) y x =
      (decide (y0 ≤ y.val ∧ y.val < y0 + n ∧ x0 ≤ x.val ∧ x.val < x0 + 8) &&
        (s.readByte (a + (y.val - y0))).getLsbD (7 - (x.val - x0))) := by
  unfold spriteCovers
  by_cases hrow : y.val - y0 < n
  · rw [s.readBytes_getElem? n a _ hrow, Option.getD_some]
    congr 2
    exact propext ⟨fun ⟨h1, h2, h3⟩ => ⟨h3, by omega, h1, h2⟩, fun ⟨h1, _, h2, h3⟩ => ⟨h2, h3, h1⟩⟩
  · have hout : ¬ (y0 ≤ y.val ∧ y.val < y0 + n ∧ x0 ≤ x.val ∧ x.val < x0 + 8) := by omega
    rw [List.getElem?_eq_none (by rw [State.readBytes_length]; omega), decide_eq_false hout]
    simp

theorem State.spriteBit_congr {s u : State} {x y x' y' : Reg} {n : Fin 16} (hi : u.i = s.i)
    (hx : (u.reg x').toNat % 64 = (s.reg x).toNat % 64) (hy : (u.reg y').toNat % 32 = (s.reg y).toNat % 32)
    (hbytes : ∀ k, k < n.val → u.readByte (s.i.toNat + k) = s.readByte (s.i.toNat + k)) :
    u.spriteBit x' y' n = s.spriteBit x y n := by
  funext py px
  rw [State.spriteBit, State.spriteBit, hi, hx, hy, State.readBytes_congr n.val _ hbytes]

/-! ### The draw -/

section
variable (s : State) (x y : Reg) (n : Fin 16)

theorem exec_drw_of_in (h : s.i.toNat + n.val ≤ 0x1000 ∨ n.val = 0) :
    exec (.drw x y n) s = .next (s.draw x y n) := by
  rw [exec_drw, s.withIRange_in _ _ _ h]

theorem State.draw_pixel (py : Fin 32) (px : Fin 64) :
    (s.draw x y n).pixel py px = (s.pixel py px ^^ s.spriteBit x y n py px) :=
  Framebuffer.pixel_drawRows _ py px _ _ _

theorem flagByte_eq_one_iff (b : Bool) : flagByte b = 1 ↔ b = true := by
  cases b <;> decide

theorem flagByte_eq_one_or_zero (b : Bool) : flagByte b = 1 ∨ flagByte b = 0 := by
  cases b <;> decide

/-- The flag the draw leaves in VF: whatever it is, it is a flag. -/
theorem State.draw_reg_flag : ∃ b, (s.draw x y n).reg 15 = flagByte b ∧
    (b = true ↔ ∃ py px, s.spriteBit x y n py px = true ∧ s.pixel py px = true) := by
  refine ⟨_, (s.setFb _).reg_setReg_self regF _, ?_⟩
  rw [Framebuffer.collision_drawRows]
  simp only [Bool.false_eq_true, false_or]
  rfl

theorem State.draw_reg_flag_eq_one_iff :
    (s.draw x y n).reg 15 = 1 ↔ ∃ py px, s.spriteBit x y n py px = true ∧ s.pixel py px = true := by
  obtain ⟨b, hflag, hb⟩ := s.draw_reg_flag x y n
  rw [hflag, flagByte_eq_one_iff, hb]

end

/-- Settles O47: the draw XORs the sprite's bits, VF is the collision, and the frame is that of the two writes. -/
theorem drwXorsTheSprite : Obligations.DrwXorsTheSprite := by
  intro s vx vy n bit hi hbit
  have hsprite : bit = s.spriteBit vx vy n := by
    funext py px
    rw [hbit, State.spriteBit, spriteCovers_readBytes]
  subst hsprite
  refine ⟨_, exec_drw_of_in s vx vy n hi, s.draw_pixel vx vy n, ?flag, s.draw_reg_flag_eq_one_iff vx vy n,
    fun z hz => ?others, fun _ => rfl, rfl⟩
  case flag =>
    obtain ⟨b, hflag, -⟩ := s.draw_reg_flag vx vy n
    rw [hflag]
    exact flagByte_eq_one_or_zero b
  case others => rw [State.draw, State.setVF_eq, State.reg_setReg, if_neg hz, State.setFb_reg]

/-- Settles O48: both draws XOR the same bits, and a bit is set where the first draw changed the pixel. -/
theorem drawingTwiceRestoresTheScreen : Obligations.DrawingTwiceRestoresTheScreen := by
  intro s t u r x y x' y' n hi hfirst hfb hui hbytes hx hy hsecond
  cases (exec_drw_of_in s x y n hi).symm.trans hfirst
  cases (exec_drw_of_in u x' y' n (by rwa [hui])).symm.trans hsecond
  have hbits : u.spriteBit x' y' n = s.spriteBit x y n := State.spriteBit_congr hui hx hy hbytes
  have hu (py px) : u.pixel py px = (s.draw x y n).pixel py px := by rw [State.pixel, hfb, State.pixel]
  refine ⟨Framebuffer.ext_pixel fun py px => ?restored, ?collision⟩
  case restored =>
    show (u.draw x' y' n).pixel py px = s.pixel py px
    rw [State.draw_pixel, hu, State.draw_pixel, hbits, Bool.xor_assoc, Bool.xor_self, Bool.xor_false]
  case collision =>
    have htoggled (py px) : (s.draw x y n).pixel py px ≠ s.pixel py px ↔ s.spriteBit x y n py px = true := by
      rw [State.draw_pixel]
      cases s.spriteBit x y n py px <;> simp
    simp only [State.draw_reg_flag_eq_one_iff, hbits, hu, htoggled]

end Sys2Proof.Machine
end

section
/-!
PROOFS of the memory's canonical form, the host's commands and the outputs (20_memory.md R50; 70_reset_and_hazards.md R240 to
R244; 60_exceptions.md R222 to R225).
-/

namespace Sys2Proof.Machine

/-! ### The canonical form is unique -/

/-- A list that begins at `a` reads otherwise at `a` than one that begins after it: a listed byte is not the reset
contents. -/
theorem Memory.read_head_ne {p : Params} {lo a : Nat} {b : Byte} {m m' : Memory}
    (hm : Memory.wfFrom p lo ((a, b) :: m) = true) (hm' : Memory.wfFrom p (a + 1) m' = true) :
    Memory.read p a ((a, b) :: m) ≠ Memory.read p a m' := by
  obtain ⟨-, -, hb, -⟩ := (Memory.wfFrom_cons p).mp hm
  rwa [Memory.read, if_pos rfl, Memory.read_below p a.lt_succ_self hm']

/-- The first listed addresses agree, then the bytes at it, then the rests. -/
theorem Memory.eq_of_read_eq {p : Params} : ∀ {m m' : Memory} {lo : Nat}, Memory.wfFrom p lo m = true →
    Memory.wfFrom p lo m' = true → (∀ a, a < memSize → Memory.read p a m = Memory.read p a m') → m = m'
  | [], [], _, _, _, _ => rfl
  | [], (a, b) :: m', lo, _, hm', hread => by
    obtain ⟨-, ha, -, -⟩ := (Memory.wfFrom_cons p).mp hm'
    exact absurd (hread a ha).symm (Memory.read_head_ne hm' rfl)
  | (a, b) :: m, [], lo, hm, _, hread => by
    obtain ⟨-, ha, -, -⟩ := (Memory.wfFrom_cons p).mp hm
    exact absurd (hread a ha) (Memory.read_head_ne hm rfl)
  | (a, b) :: m, (a', b') :: m', lo, hm, hm', hread => by
    obtain ⟨-, ha, htail⟩ := (Memory.wfFrom_cons p).mp hm
    obtain ⟨-, ha', htail'⟩ := (Memory.wfFrom_cons p).mp hm'
    obtain hlt | rfl | hgt := Nat.lt_trichotomy a a'
    · exact absurd (hread a ha) (Memory.read_head_ne hm ((Memory.wfFrom_cons p).mpr ⟨hlt, ha', htail'⟩))
    · have hb : b = b' := by simpa only [Memory.read, if_true] using hread a ha
      have hrest : m = m' := Memory.eq_of_read_eq htail.2 htail'.2 fun c hc => by
        by_cases hca : c = a
        · rw [hca, Memory.read_below p a.lt_succ_self htail.2, Memory.read_below p a.lt_succ_self htail'.2]
        · simpa only [Memory.read, if_neg hca] using hread c hc
      rw [hb, hrest]
    · exact absurd (hread a' ha').symm (Memory.read_head_ne hm' ((Memory.wfFrom_cons p).mpr ⟨hgt, ha, htail⟩))

/-- Settles O19: the canonical form from address 0 upward. -/
theorem canonicalMemoryIsDeterminedByItsBytes : Obligations.CanonicalMemoryIsDeterminedByItsBytes :=
  fun _ _ _ hm hm' hread => Memory.eq_of_read_eq hm hm' hread

/-! ### SETKEY -/

/-- Settles O50: SETKEY is one write of the keypad. -/
theorem setKeyWritesOneKey : Obligations.SetKeyWritesOneKey := by
  intro s k p
  refine ⟨s.setKey k p, rfl, ?written, fun j hj => ?others, rfl⟩
  case written => rw [State.keyDown_setKey, if_pos rfl]
  case others => rw [State.keyDown_setKey, if_neg hj]

/-! ### RESET -/

section
variable (s : State)

theorem State.resetCommand_reg (x : Reg) : s.resetCommand.reg x = 0x00 := by
  show (Vector.replicate 16 (0x00 : Byte))[x.val] = 0x00
  exact Vector.getElem_replicate _

theorem State.resetCommand_keyDown (k : KeyId) : s.resetCommand.keyDown k = false := by
  show (Vector.replicate 16 false)[k.val] = false
  exact Vector.getElem_replicate _

theorem State.resetCommand_pixel (y : Fin 32) (x : Fin 64) : s.resetCommand.pixel y x = false :=
  Framebuffer.pixel_blank y x

end

theorem unlisted_font (p : Params) (j : Fin 80) : Memory.unlisted p (p.fontBase.val + j.val) = p.font[j] := by
  simp [Memory.unlisted]

theorem unlisted_outside_font (p : Params) {a : Nat} (h : a < p.fontBase.val ∨ p.fontBase.val + 79 < a) :
    Memory.unlisted p a = 0x00 := dif_neg (by omega)

/-- Settles O51: every field of the RESET state, and memory unlisted. -/
theorem resetGivesTheTabulatedValues : Obligations.ResetGivesTheTabulatedValues := by
  intro s
  exact ⟨s.resetCommand, rfl, s.resetCommand_reg, rfl, rfl, rfl, s.getElem_resetCommand_stack, rfl, rfl, rfl,
    unlisted_font s.params, fun _ => unlisted_outside_font s.params, s.resetCommand_pixel, s.resetCommand_keyDown, rfl, rfl,
    rfl, rfl⟩

/-! ### LOAD -/

theorem length_take_romMax_le (rom : List Byte) : romBase + (rom.take romMax).length ≤ 4096 := by
  rw [List.length_take, romBase, romMax]
  omega

theorem State.readByte_loadCommand (s : State) (rom : List Byte) (a : Nat) :
    (s.loadCommand rom).readByte a = s.resetCommand.byteStored romBase (rom.take romMax) a :=
  State.readByte_writeBytes_byteStored _ (memCanonical_resetCommand s) _ _ _ (length_take_romMax_le rom)

/-- A ROM byte below the bound of R242. -/
theorem State.readByte_loadCommand_rom (s : State) {rom : List Byte} {k : Nat} {b : Byte} (hb : rom[k]? = some b)
    (hk : k < romMax) : (s.loadCommand rom).readByte (romBase + k) = b := by
  rw [State.readByte_loadCommand, State.byteStored_of_getElem?]
  rw [List.getElem?_take_of_lt hk, hb]

/-- Settles O52: LOAD stores the ROM bytes that fit into the RESET state. -/
theorem loadPlacesTheRom : Obligations.LoadPlacesTheRom := by
  intro s rom
  refine ⟨s.loadCommand rom, s.resetCommand, rfl, rfl, fun k hk hmax => ?rom, fun a ha => ?others, rfl, ?empty⟩
  case rom => exact s.readByte_loadCommand_rom (List.getElem?_eq_getElem hk) hmax
  case others =>
    rw [State.readByte_loadCommand, State.byteStored_of_outside]
    rw [List.length_take, romBase, romMax]
    omega
  case empty =>
    rintro rfl
    rfl

/-- Settles O53: LOAD leaves PC at 0x200 and no fault, so the STEP runs the word of the first two bytes. -/
theorem loadedProgramStartsAtItsFirstWord : Obligations.LoadedProgramStartsAtItsFirstWord := by
  intro s t b0 b1 rom rnd hload
  cases hload
  have hword : (s.loadCommand (b0 :: b1 :: rom)).wordAt 0x200 = joinBytes b0 b1 := by
    rw [State.wordAt]
    exact congrArg₂ joinBytes (s.readByte_loadCommand_rom (k := 0) rfl (by decide))
      (s.readByte_loadCommand_rom (k := 1) rfl (by decide))
  refine ⟨(s.loadCommand (b0 :: b1 :: rom)).afterFetch rnd, ?_, rfl, rfl, rfl⟩
  have hpc : (s.loadCommand (b0 :: b1 :: rom)).pc = 0x200 := rfl
  have hrun := stepWith_of_fetchable rnd (s := s.loadCommand (b0 :: b1 :: rom)) rfl (by rw [hpc]; decide)
  rwa [State.currentInstr, hpc, show (0x200 : Word).toNat = 0x200 from rfl, hword] at hrun

/-! ### Outputs -/

/-- The grid is the framebuffer's rows, one after the other. -/
theorem State.displayGrid_eq (s : State) : s.displayGrid = s.fb.flatten.toList := by
  show _ = (Array.map Vector.toArray s.fb.toArray).flatten.toList
  rw [Array.toList_flatten, Array.toList_map, List.map_map]
  rfl

theorem State.displayGrid_getElem? (s : State) (y : Fin 32) (x : Fin 64) :
    s.displayGrid[y.val * 64 + x.val]? = some (s.pixel y x) := by
  have hlt : y.val * 64 + x.val < 32 * 64 := by omega
  have hrow : (y.val * 64 + x.val) / 64 = y.val := by omega
  have hcol : (y.val * 64 + x.val) % 64 = x.val := by omega
  rw [State.displayGrid_eq, Vector.getElem?_toList, Vector.getElem?_flatten, dif_pos hlt]
  simp only [hrow, hcol]
  rfl

/-- Settles O54: element y * 64 + x of the rows one after the other is in row y, at column x. -/
theorem outputsShowFramebufferAndSound : Obligations.OutputsShowFramebufferAndSound := by
  intro s
  refine ⟨?size, s.displayGrid_getElem?, rfl, rfl, decide_eq_true_iff⟩
  case size => rw [State.displayGrid_eq, Vector.length_toList]

end Sys2Proof.Machine
end
